-- ==== Sys2Proof/Word.lean ====
section
/-! DEFINITION. The word types of the block: every storage access is one byte (20_memory.md R80), RAM addresses are 16 bits,
frame numbers 32 bits, and a host operation is a 14-bit word (30_encoding.md R100). -/

namespace Sys2Proof

/-- One byte (u8). -/
abbrev Byte := BitVec 8

/-- A 16-bit ADPCM address or length (u16). -/
abbrev Addr := BitVec 16

/-- An absolute disc frame number (u32), 10_state.md R31. -/
abbrev Frame := BitVec 32

/-- A host-operation word, 30_encoding.md R100. -/
abbrev HostWord := BitVec 14

/-- The index of a host register, 0x0 to 0xF (20_memory.md R70). -/
abbrev RegIndex := Fin 16

end Sys2Proof
end

