-- ==== Sys2Proof/Config.lean ====
section
/-! DEFINITION. What an implementation or a run fixes: the parameters of 00_scope.md R7, the disc (20_memory.md R74), the free
values ("draws") the spec leaves open, and the sizes and rates the spec lists. -/

namespace Sys2Proof

/-- The end action of CD-DA playback, 10_state.md R33. -/
inductive PlayMode where
  | noEnd | repeats | irqAtEnd | stopAtEnd
  deriving DecidableEq, Repr

/-- The type of a track, 20_memory.md R74. -/
inductive TrackKind where
  | audio | data
  deriving DecidableEq, Repr

/-- One TOC entry: first frame, number of frames, type (20_memory.md R74). -/
structure Track where
  start  : Frame
  frames : Frame
  kind   : TrackKind
  deriving DecidableEq, Repr

/-- The contents of one readable data sector: 2048 bytes (20_memory.md R73). -/
structure Sector where
  frame : Frame
  bytes : List Byte
  deriving DecidableEq, Repr

/-- A mounted disc image: its table of contents and its readable sectors (20_memory.md R74). -/
structure Disc where
  tracks  : List Track
  sectors : List Sector
  deriving DecidableEq, Repr

/-- How far SET-AUDIO-START plays: the track of the start frame, or the whole disc (41_scsi_commands.md R187). -/
inductive Extent where
  | thisTrack | wholeDisc
  deriving DecidableEq, Repr

/-- One row of R187's table, for every start frame: where playback ends, its end action, and whether the end-of-track poll is armed. -/
structure StartRow where
  extent : Extent
  mode   : PlayMode
  armed  : Bool
  deriving DecidableEq, Repr

/-- What START_MODE answers: the end frame, the end action, and whether the end-of-track poll is armed (41_scsi_commands.md R187). -/
structure StartAnswer where
  endFrame : Frame
  mode     : PlayMode
  armed    : Bool
  deriving DecidableEq, Repr

/-- One value of START_MODE given outright: the mode bits and the start frame, and what they map to. -/
structure StartEntry where
  bits   : BitVec 2
  start  : Frame
  answer : StartAnswer
  deriving DecidableEq, Repr

/-- START_MODE, the map from mode bits `c[1][1:0]` and start frame to an answer (41_scsi_commands.md R187): the entries given outright,
and for every other pair the row of its mode bits. There are finitely many pairs, so every such map is one of these (log 10). -/
structure StartModeTable where
  given : List StartEntry
  row0 : StartRow
  row1 : StartRow
  row2 : StartRow
  row3 : StartRow
  deriving DecidableEq, Repr

/-- The default START_MODE table of 41_scsi_commands.md R187. -/
def StartModeTable.standard : StartModeTable where
  given := []
  row0 := ⟨.thisTrack, .stopAtEnd, false⟩
  row1 := ⟨.wholeDisc, .stopAtEnd, false⟩
  row2 := ⟨.thisTrack, .repeats, true⟩
  row3 := ⟨.wholeDisc, .irqAtEnd, true⟩

/-- The parameters of a run (00_scope.md R7, 10_state.md R49). No step changes them. -/
structure Config where
  /-- DISC: `none`, or the mounted image. -/
  disc             : Option Disc
  /-- LEAD_IN: the MSF lead-in correction (30_encoding.md R109). -/
  leadIn           : Nat
  /-- START_MODE (41_scsi_commands.md R187). -/
  startMode        : StartModeTable
  /-- DMA_AUTO_DISARM (42_adpcm_dma.md R232). -/
  dmaAutoDisarm    : Bool
  /-- PLAY_ADDR_WRAP (42_adpcm_dma.md R241). -/
  playAddrWrap     : Bool
  /-- REG_BASE, the host address of register 0x0; `none` while it is OPEN, its default (20_memory.md R71, log 21). -/
  regBase          : Option Nat
  /-- ADPCM_BASE_CLOCK in Hz (42_adpcm_dma.md R243); no step reads it. -/
  adpcmBaseClock   : Nat
  /-- ARCADE_CARD (20_memory.md R71). -/
  arcadeCard       : Bool
  /-- The high offset bit that routes an access to the Arcade Card bank, counted from bit 4, the lowest that R71's register index does
  not take; `none` while it is open: "Which bit it is, the source does not say" (20_memory.md R71, log 21). -/
  arcadeBit        : Option Nat
  deriving DecidableEq, Repr

/-- The defaults of 00_scope.md R7; REG_BASE, and the Arcade Card bit that is part of its decoding, stay OPEN. -/
def Config.standard : Config where
  disc := none
  leadIn := 525
  startMode := .standard
  dmaAutoDisarm := true
  playAddrWrap := true
  regBase := none
  adpcmBaseClock := 9216000
  arcadeCard := false
  arcadeBit := none

/-! ## Sizes the source fixes (00_scope.md R6) -/

/-- The capacity of `commandBuffer`. -/
def Config.commandCapacity : Nat := 256

/-- The capacity of `dataBuffer`. -/
def Config.dataCapacity : Nat := 8192

/-- The payload of one sector. -/
def Config.sectorBytes : Nat := 2048

/-- The size of ADPCM RAM. -/
def Config.ramBytes : Nat := 65536

/-- The value `readHoldoff` is re-armed to. -/
def Config.readHoldoffRearm : Nat := 2

/-- One step of a fade: 10 % of full scale. -/
def Config.fadeStep : Nat := 10

/-- Full volume. -/
def Config.fullVolume : Nat := 100

/-! ## Rates (70_reset_and_hazards.md R410): timing only, no rule reads them -/

/-- The sector-read timer, in Hz. -/
def Config.sectorTimerHz : Nat := 75

/-- The ADPCM DMA timer, in Hz. -/
def Config.dmaTimerHz : Nat := 75 * 2048

/-! ## Free values: constants with no body, so that no proof can see them -/

/-- The n-th byte the block draws: registers 0x5 and 0x6, bits 7, 1 and 0 of register 0x3, bytes of a failed sector
(44_host_registers.md R303, R306; 20_memory.md R73). -/
opaque Config.freeByte : Nat → Byte

/-- The n-th answer of the player's `currentFrame()` that no schedule gives (20_memory.md R84). -/
opaque Config.freeFrame : Nat → Frame

/-- The power-on content of each byte of ADPCM RAM (10_state.md R36). -/
opaque Config.ramAtPowerOn : Nat → Byte

/-- The power-on content of each byte of `dataBuffer` (10_state.md R28). -/
opaque Config.dataBufferAtPowerOn : Nat → Byte

/-- What a u32 frame field holds when the number put into it does not fit (no rule states it). -/
opaque Config.frameOverflow : Nat → Frame

end Sys2Proof
end

