-- ==== Sys2Proof/Syntax.lean ====
section
/-! DEFINITION. The instructions: one constructor per row of spec/opcode_table.json. The rows are the host operations (RD, WR, EV
and the reserved kind, 30_encoding.md R100), the command descriptor blocks (R106), and the rows that refine one of those:
GET-DIR-INFO by sub-function (R114), WR 0xF by fade program (43_fade.md R272), the audio commands by address type (R109). -/

namespace Sys2Proof

/-- An audio address operand of SET-AUDIO-START or SET-AUDIO-END, by its type bits `c[9][7:6]` (30_encoding.md R109). -/
inductive AudioAddr where
  /-- Type 0: a raw 24-bit frame number, bytes c[3], c[4], c[5]. -/
  | lba (frame : BitVec 24)
  /-- Type 1: BCD minute, second and frame, bytes c[2], c[3], c[4]. -/
  | msf (minute second frame : Byte)
  /-- Type 2: a BCD track number, byte c[2]. -/
  | track (number : Byte)
  /-- Type 3: no meaning. -/
  | reserved
  deriving DecidableEq, Repr

/-- Which of the two audio commands an AUDIO-ADDR row stands in. -/
inductive AudioCommand where
  | start | finish
  deriving DecidableEq, Repr

/-- A complete command descriptor block, as its opcode byte reads it (30_encoding.md R106 to R108). -/
inductive Command where
  | testUnitReady
  | read6 (frame : BitVec 21) (count : Byte)
  | setAudioStart (mode : BitVec 2) (addr : AudioAddr)
  | setAudioEnd (mode : BitVec 2) (addr : AudioAddr)
  | pause
  | getSubchannelQ
  | getDirInfo (subFunction track : Byte)
  deriving DecidableEq, Repr

/-- One constructor per row of spec/opcode_table.json. -/
inductive Instr where
  -- host register reads
  | rd0x0 | rd0x1 | rd0x2 | rd0x3 | rd0x4 | rd0x5 | rd0x6 | rd0x7
  | rd0x8 | rd0x9 | rd0xA | rd0xB | rd0xC | rd0xD | rd0xE | rd0xF
  -- host register writes
  | wr0x0 (data : Byte)
  | wr0x1 (data : Byte)
  | wr0x2 (data : Byte)
  | wr0x3 (data : Byte)
  | wr0x4 (data : Byte)
  | wr0x5 (data : Byte)
  | wr0x6 (data : Byte)
  | wr0x7 (data : Byte)
  | wr0x8 (data : Byte)
  | wr0x9 (data : Byte)
  | wr0xA (data : Byte)
  | wr0xB (data : Byte)
  | wr0xC (data : Byte)
  | wr0xD (data : Byte)
  | wr0xE (data : Byte)
  | wr0xF (data : Byte)
  -- agent events
  | evTickSector | evTickDma | evTickNibble
  | evFadeCdIn | evFadeCdOut | evFadeAdIn | evFadeAdOut
  | evPollAudio (answer : Bool)
  -- the reserved kind 11, with its other twelve bits
  | reserved (low : BitVec 12)
  -- command descriptor blocks
  | testUnitReady
  | read6 (frame : BitVec 21) (count : Byte)
  | setAudioStart (mode : BitVec 2) (addr : AudioAddr)
  | setAudioEnd (mode : BitVec 2) (addr : AudioAddr)
  | pause
  | getSubchannelQ
  | getDirInfo (subFunction track : Byte)
  -- GET-DIR-INFO by sub-function
  | dirInfoTracks
  | dirInfoDiscSize
  | dirInfoTrackStart (track : Byte)
  -- WR 0xF by fade program, with the high nibble of the byte
  | fade0x0 (high : BitVec 4)
  | fade0x1 (high : BitVec 4)
  | fade0x8 (high : BitVec 4)
  | fade0x9 (high : BitVec 4)
  | fade0xA (high : BitVec 4)
  | fade0xC (high : BitVec 4)
  | fade0xD (high : BitVec 4)
  | fade0xE (high : BitVec 4)
  -- the audio commands by address type
  | audioAddrLba (cmd : AudioCommand) (mode : BitVec 2) (frame : BitVec 24)
  | audioAddrMsf (cmd : AudioCommand) (mode : BitVec 2) (minute second frame : Byte)
  | audioAddrTrack (cmd : AudioCommand) (mode : BitVec 2) (number : Byte)
  | audioAddrReserved (cmd : AudioCommand) (mode : BitVec 2)
  deriving DecidableEq, Repr

/-- The instruction a command descriptor block is. -/
def Command.toInstr : Command → Instr
  | .testUnitReady => .testUnitReady
  | .read6 frame count => .read6 frame count
  | .setAudioStart mode addr => .setAudioStart mode addr
  | .setAudioEnd mode addr => .setAudioEnd mode addr
  | .pause => .pause
  | .getSubchannelQ => .getSubchannelQ
  | .getDirInfo subFunction track => .getDirInfo subFunction track

/-- An encoded instruction, under the format of its row (the column `format` of spec/opcode_table.json). -/
inductive Code where
  /-- Formats `hostop` and `hostop WR 0xF`: a 14-bit word. -/
  | hostOp (w : HostWord)
  /-- Formats `cdb6` and `cdb10`: the bytes of a command, read by the opcode c[0]. -/
  | cdb (c : List Byte)
  /-- Format `cdb10 c0:c1`: a GET-DIR-INFO block, read by its sub-function. -/
  | cdbSub (c : List Byte)
  /-- Format `cdb10 c9`: an audio command's block, read by its address type. -/
  | cdbAddr (c : List Byte)
  deriving DecidableEq, Repr

end Sys2Proof
end

