-- ==== Sys2Proof/WellFormed.lean ====
section
/-! DEFINITION. Which instructions are well formed. Operand widths are in the types, so one check is left: the words of WR 0xF whose
low nibble is a fade program of 43_fade.md R272 are the FADE rows' words, and the row WR 0xF keeps the others. -/

namespace Sys2Proof

/-- Whether a 4-bit code is in the fade-program table, 43_fade.md R272. -/
def isFadeProgram (p : BitVec 4) : Bool :=
  p == 0x0 || p == 0x1 || p == 0x8 || p == 0x9 || p == 0xA || p == 0xC || p == 0xD || p == 0xE

/-- The instruction is the one its own words decode to. -/
def Instr.wf : Instr → Bool
  | .wr0xF data => !isFadeProgram (data.extractLsb' 0 4)
  | _ => true

end Sys2Proof
end

