-- ==== Sys2Proof/Decode.lean ====
section
/-! DEFINITION. The decoders of the block's encoded streams (30_encoding.md), each total and refusing by name, and after them the
encoder, written from the same tables. -/

namespace Sys2Proof

/-- Why a decoder refuses. -/
inductive DecodeError where
  /-- RD with a data byte other than 0 (30_encoding.md R101). -/
  | readWithData
  /-- EV with an event id of 8 or more (R101). -/
  | noSuchEvent
  /-- EV other than POLL_AUDIO with a data byte other than 0 (R101). -/
  | eventWithData
  /-- EV POLL_AUDIO with an answer that is no boolean (R101). -/
  | badPollAnswer
  /-- A command of no bytes. -/
  | emptyCommand
  /-- The opcode is not in the table (R106). -/
  | unknownOpcode (op : Byte)
  /-- The number of bytes is not the opcode's length (R106). -/
  | wrongLength
  /-- GET-DIR-INFO with a sub-function above 2 (R114). -/
  | noSuchSubFunction (code : Byte)
  /-- The block is not the command this format belongs to. -/
  | notThisFormat
  deriving DecidableEq, Repr

/-! ## Host operations (30_encoding.md R100 to R102) -/

/-- `kind`, bits 13:12 of a host-operation word. -/
def opKind (w : HostWord) : BitVec 2 := w.extractLsb' 12 2

/-- `sel`, bits 11:8 of a host-operation word. -/
def opSel (w : HostWord) : BitVec 4 := w.extractLsb' 8 4

/-- `data`, bits 7:0 of a host-operation word. -/
def opData (w : HostWord) : Byte := w.extractLsb' 0 8

/-- A host-operation word from its three fields, 30_encoding.md R100. -/
def hostWord (kind : BitVec 2) (sel : BitVec 4) (data : Byte) : HostWord := kind ++ sel ++ data

/-- The row of `RD sel`. -/
def readRow (sel : BitVec 4) : Instr :=
  match sel.toNat with
  | 0 => .rd0x0
  | 1 => .rd0x1
  | 2 => .rd0x2
  | 3 => .rd0x3
  | 4 => .rd0x4
  | 5 => .rd0x5
  | 6 => .rd0x6
  | 7 => .rd0x7
  | 8 => .rd0x8
  | 9 => .rd0x9
  | 10 => .rd0xA
  | 11 => .rd0xB
  | 12 => .rd0xC
  | 13 => .rd0xD
  | 14 => .rd0xE
  | _ => .rd0xF

/-- The row of `WR 0xF, data`: its fade program where the low nibble names one (43_fade.md R272), else WR 0xF itself. -/
def fadeRow (data : Byte) : Instr :=
  let high := data.extractLsb' 4 4
  match (data.extractLsb' 0 4).toNat with
  | 0x0 => .fade0x0 high
  | 0x1 => .fade0x1 high
  | 0x8 => .fade0x8 high
  | 0x9 => .fade0x9 high
  | 0xA => .fade0xA high
  | 0xC => .fade0xC high
  | 0xD => .fade0xD high
  | 0xE => .fade0xE high
  | _ => .wr0xF data

/-- The row of `WR sel, data`. -/
def writeRow (sel : BitVec 4) (data : Byte) : Instr :=
  match sel.toNat with
  | 0 => .wr0x0 data
  | 1 => .wr0x1 data
  | 2 => .wr0x2 data
  | 3 => .wr0x3 data
  | 4 => .wr0x4 data
  | 5 => .wr0x5 data
  | 6 => .wr0x6 data
  | 7 => .wr0x7 data
  | 8 => .wr0x8 data
  | 9 => .wr0x9 data
  | 10 => .wr0xA data
  | 11 => .wr0xB data
  | 12 => .wr0xC data
  | 13 => .wr0xD data
  | 14 => .wr0xE data
  | _ => fadeRow data

/-- The row of `EV POLL_AUDIO, data` (30_encoding.md R101, R103). -/
def pollRow (data : Byte) : Except DecodeError Instr :=
  match data.toNat with
  | 0 => .ok (.evPollAudio false)
  | 1 => .ok (.evPollAudio true)
  | _ => .error .badPollAnswer

/-- An event that carries no data (30_encoding.md R101). -/
def plainEvent (data : Byte) (i : Instr) : Except DecodeError Instr :=
  if data = 0 then .ok i else .error .eventWithData

/-- The row of `EV sel` (30_encoding.md R102). -/
def eventRow (sel : BitVec 4) (data : Byte) : Except DecodeError Instr :=
  match sel.toNat with
  | 0 => plainEvent data .evTickSector
  | 1 => plainEvent data .evTickDma
  | 2 => plainEvent data .evTickNibble
  | 3 => plainEvent data .evFadeCdIn
  | 4 => plainEvent data .evFadeCdOut
  | 5 => plainEvent data .evFadeAdIn
  | 6 => plainEvent data .evFadeAdOut
  | 7 => pollRow data
  | _ => .error .noSuchEvent

/-- The instruction a host-operation word is (30_encoding.md R100 to R102). -/
def decodeHostOp (w : HostWord) : Except DecodeError Instr :=
  match (opKind w).toNat with
  | 0 => if opData w = 0 then .ok (readRow (opSel w)) else .error .readWithData
  | 1 => .ok (writeRow (opSel w) (opData w))
  | 2 => eventRow (opSel w) (opData w)
  | _ => .ok (.reserved (w.extractLsb' 0 12))

/-! ## Command descriptor blocks (30_encoding.md R106 to R108) -/

/-- Byte i of a command (0 past its end, which no decoder asks for). -/
def cdbByte (c : List Byte) (i : Nat) : Byte := c.getD i 0

/-- The length the opcode alone fixes, 30_encoding.md R106; `none` for the 249 unrecognized values. -/
def commandLength (op : Byte) : Option Nat :=
  match op.toNat with
  | 0x00 => some 6
  | 0x08 => some 6
  | 0xD8 => some 10
  | 0xD9 => some 10
  | 0xDA => some 10
  | 0xDD => some 10
  | 0xDE => some 10
  | _ => none

/-- READ(6)'s start frame `c[1][4:0], c[2], c[3]` (30_encoding.md R107). -/
def cdbFrame (c : List Byte) : BitVec 21 :=
  (cdbByte c 1).extractLsb' 0 5 ++ cdbByte c 2 ++ cdbByte c 3

/-- The raw frame number `c[3], c[4], c[5]` of an audio address (30_encoding.md R109). -/
def cdbLba (c : List Byte) : BitVec 24 := cdbByte c 3 ++ cdbByte c 4 ++ cdbByte c 5

/-- The mode bits `c[1][1:0]` of an audio command (30_encoding.md R108). -/
def cdbMode (c : List Byte) : BitVec 2 := (cdbByte c 1).extractLsb' 0 2

/-- The audio address by its type bits `c[9][7:6]` (30_encoding.md R109). -/
def cdbAudioAddr (c : List Byte) : AudioAddr :=
  match ((cdbByte c 9).extractLsb' 6 2).toNat with
  | 0 => .lba (cdbLba c)
  | 1 => .msf (cdbByte c 2) (cdbByte c 3) (cdbByte c 4)
  | 2 => .track (cdbByte c 2)
  | _ => .reserved

/-- A command of a recognized opcode and the right length, read by the layouts of 30_encoding.md R107 and R108. -/
def commandOf (op : Byte) (c : List Byte) : Except DecodeError Command :=
  match op.toNat with
  | 0x00 => .ok .testUnitReady
  | 0x08 => .ok (.read6 (cdbFrame c) (cdbByte c 4))
  | 0xD8 => .ok (.setAudioStart (cdbMode c) (cdbAudioAddr c))
  | 0xD9 => .ok (.setAudioEnd (cdbMode c) (cdbAudioAddr c))
  | 0xDA => .ok .pause
  | 0xDD => .ok .getSubchannelQ
  | 0xDE => .ok (.getDirInfo (cdbByte c 1) (cdbByte c 2))
  | _ => .error (.unknownOpcode op)

/-- The command a complete block is (30_encoding.md R106). -/
def decodeCommand (c : List Byte) : Except DecodeError Command :=
  match c with
  | [] => .error .emptyCommand
  | op :: _ =>
    match commandLength op with
    | none => .error (.unknownOpcode op)
    | some n => if c.length = n then commandOf op c else .error .wrongLength

/-- The GET-DIR-INFO row by its sub-function (30_encoding.md R114). -/
def dirInfoRow (subFunction track : Byte) : Except DecodeError Instr :=
  match subFunction.toNat with
  | 0 => .ok .dirInfoTracks
  | 1 => .ok .dirInfoDiscSize
  | 2 => .ok (.dirInfoTrackStart track)
  | _ => .error (.noSuchSubFunction subFunction)

/-- The row of format `cdb10 c0:c1`: GET-DIR-INFO by its sub-function. -/
def decodeSubFunction (c : List Byte) : Except DecodeError Instr :=
  match decodeCommand c with
  | .ok (.getDirInfo subFunction track) => dirInfoRow subFunction track
  | .ok _ => .error .notThisFormat
  | .error e => .error e

/-- The audio command's row by its address type (30_encoding.md R109). -/
def audioAddrRow (cmd : AudioCommand) (mode : BitVec 2) : AudioAddr → Instr
  | .lba frame => .audioAddrLba cmd mode frame
  | .msf minute second frame => .audioAddrMsf cmd mode minute second frame
  | .track number => .audioAddrTrack cmd mode number
  | .reserved => .audioAddrReserved cmd mode

/-- The row of format `cdb10 c9`: an audio command by its address type. -/
def decodeAddrType (c : List Byte) : Except DecodeError Instr :=
  match decodeCommand c with
  | .ok (.setAudioStart mode addr) => .ok (audioAddrRow .start mode addr)
  | .ok (.setAudioEnd mode addr) => .ok (audioAddrRow .finish mode addr)
  | .ok _ => .error .notThisFormat
  | .error e => .error e

/-- The instruction an encoded instruction is, by the format of its row. -/
def decode : Code → Except DecodeError Instr
  | .hostOp w => decodeHostOp w
  | .cdb c => (decodeCommand c).map Command.toInstr
  | .cdbSub c => decodeSubFunction c
  | .cdbAddr c => decodeAddrType c

/-! ## The encoder -/

/-- The ten bytes of an audio command (30_encoding.md R108, R109); the ignored bits are 0. -/
def audioBytes (op : Byte) (mode : BitVec 2) : AudioAddr → List Byte
  | .lba frame =>
    [op, mode.setWidth 8, 0, frame.extractLsb' 16 8, frame.extractLsb' 8 8, frame.extractLsb' 0 8, 0, 0, 0, 0x00]
  | .msf minute second frame => [op, mode.setWidth 8, minute, second, frame, 0, 0, 0, 0, 0x40]
  | .track number => [op, mode.setWidth 8, number, 0, 0, 0, 0, 0, 0, 0x80]
  | .reserved => [op, mode.setWidth 8, 0, 0, 0, 0, 0, 0, 0, 0xC0]

/-- The opcode of an audio command. -/
def AudioCommand.opcode : AudioCommand → Byte
  | .start => 0xD8
  | .finish => 0xD9

/-- The bytes of a command (30_encoding.md R106 to R109); the ignored bytes are 0. -/
def encodeCommand : Command → List Byte
  | .testUnitReady => [0x00, 0, 0, 0, 0, 0]
  | .read6 frame count =>
    [0x08, (frame.extractLsb' 16 5).setWidth 8, frame.extractLsb' 8 8, frame.extractLsb' 0 8, count, 0]
  | .setAudioStart mode addr => audioBytes 0xD8 mode addr
  | .setAudioEnd mode addr => audioBytes 0xD9 mode addr
  | .pause => [0xDA, 0, 0, 0, 0, 0, 0, 0, 0, 0]
  | .getSubchannelQ => [0xDD, 0, 0, 0, 0, 0, 0, 0, 0, 0]
  | .getDirInfo subFunction track => [0xDE, subFunction, track, 0, 0, 0, 0, 0, 0, 0]

/-- The word of `RD sel`. -/
def readWord (sel : BitVec 4) : Code := .hostOp (hostWord 0 sel 0)

/-- The word of `WR sel, data`. -/
def writeWord (sel : BitVec 4) (data : Byte) : Code := .hostOp (hostWord 1 sel data)

/-- The word of `EV sel` with its data byte. -/
def eventWord (sel : BitVec 4) (data : Byte) : Code := .hostOp (hostWord 2 sel data)

/-- The byte that selects fade program `p` with the high nibble `high`. -/
def fadeByte (high p : BitVec 4) : Byte := high ++ p

/-- The words of an instruction, in the format of its row. -/
def encode : Instr → Code
  | .rd0x0 => readWord 0x0
  | .rd0x1 => readWord 0x1
  | .rd0x2 => readWord 0x2
  | .rd0x3 => readWord 0x3
  | .rd0x4 => readWord 0x4
  | .rd0x5 => readWord 0x5
  | .rd0x6 => readWord 0x6
  | .rd0x7 => readWord 0x7
  | .rd0x8 => readWord 0x8
  | .rd0x9 => readWord 0x9
  | .rd0xA => readWord 0xA
  | .rd0xB => readWord 0xB
  | .rd0xC => readWord 0xC
  | .rd0xD => readWord 0xD
  | .rd0xE => readWord 0xE
  | .rd0xF => readWord 0xF
  | .wr0x0 data => writeWord 0x0 data
  | .wr0x1 data => writeWord 0x1 data
  | .wr0x2 data => writeWord 0x2 data
  | .wr0x3 data => writeWord 0x3 data
  | .wr0x4 data => writeWord 0x4 data
  | .wr0x5 data => writeWord 0x5 data
  | .wr0x6 data => writeWord 0x6 data
  | .wr0x7 data => writeWord 0x7 data
  | .wr0x8 data => writeWord 0x8 data
  | .wr0x9 data => writeWord 0x9 data
  | .wr0xA data => writeWord 0xA data
  | .wr0xB data => writeWord 0xB data
  | .wr0xC data => writeWord 0xC data
  | .wr0xD data => writeWord 0xD data
  | .wr0xE data => writeWord 0xE data
  | .wr0xF data => writeWord 0xF data
  | .evTickSector => eventWord 0 0
  | .evTickDma => eventWord 1 0
  | .evTickNibble => eventWord 2 0
  | .evFadeCdIn => eventWord 3 0
  | .evFadeCdOut => eventWord 4 0
  | .evFadeAdIn => eventWord 5 0
  | .evFadeAdOut => eventWord 6 0
  | .evPollAudio answer => eventWord 7 (if answer then 1 else 0)
  | .reserved low => .hostOp ((3 : BitVec 2) ++ low)
  | .testUnitReady => .cdb (encodeCommand .testUnitReady)
  | .read6 frame count => .cdb (encodeCommand (.read6 frame count))
  | .setAudioStart mode addr => .cdb (encodeCommand (.setAudioStart mode addr))
  | .setAudioEnd mode addr => .cdb (encodeCommand (.setAudioEnd mode addr))
  | .pause => .cdb (encodeCommand .pause)
  | .getSubchannelQ => .cdb (encodeCommand .getSubchannelQ)
  | .getDirInfo subFunction track => .cdb (encodeCommand (.getDirInfo subFunction track))
  | .dirInfoTracks => .cdbSub (encodeCommand (.getDirInfo 0 0))
  | .dirInfoDiscSize => .cdbSub (encodeCommand (.getDirInfo 1 0))
  | .dirInfoTrackStart track => .cdbSub (encodeCommand (.getDirInfo 2 track))
  | .fade0x0 high => writeWord 0xF (fadeByte high 0x0)
  | .fade0x1 high => writeWord 0xF (fadeByte high 0x1)
  | .fade0x8 high => writeWord 0xF (fadeByte high 0x8)
  | .fade0x9 high => writeWord 0xF (fadeByte high 0x9)
  | .fade0xA high => writeWord 0xF (fadeByte high 0xA)
  | .fade0xC high => writeWord 0xF (fadeByte high 0xC)
  | .fade0xD high => writeWord 0xF (fadeByte high 0xD)
  | .fade0xE high => writeWord 0xF (fadeByte high 0xE)
  | .audioAddrLba cmd mode frame => .cdbAddr (audioBytes cmd.opcode mode (.lba frame))
  | .audioAddrMsf cmd mode minute second frame => .cdbAddr (audioBytes cmd.opcode mode (.msf minute second frame))
  | .audioAddrTrack cmd mode number => .cdbAddr (audioBytes cmd.opcode mode (.track number))
  | .audioAddrReserved cmd mode => .cdbAddr (audioBytes cmd.opcode mode .reserved)

/-! ## Words as the opcode table numbers them -/

/-- `n` bytes of a number, the lowest eight bits first. -/
def bytesOf : Nat → Nat → List Byte
  | 0, _ => []
  | n + 1, w => BitVec.ofNat 8 w :: bytesOf n (w / 256)

/-- The encoded instruction that a table row's bits are, the bits the row does not give being 0. A row of 8 bits is an opcode c[0]
or, where no opcode has that value, a byte c[9], which the table gives without its c[0]: it is laid out under the opcode 0xD8.
A row of 16 bits is a host operation, whose word has 14 bits, or the two bytes c[0] (high) and c[1] (low), as the table's own
match 0xDE00 orders them. A longer row is a whole block, its first byte lowest. -/
def codeOfTableWord (nbits w : Nat) : Code :=
  if nbits ≤ 8 then
    let b := BitVec.ofNat 8 w
    match commandLength b with
    | some n => .cdb (b :: List.replicate (n - 1) 0)
    | none => .cdbAddr [0xD8, 0, 0, 0, 0, 0, 0, 0, 0, b]
  else if nbits ≤ 16 then
    if w < 0x4000 then .hostOp (BitVec.ofNat 14 w)
    else .cdbSub (BitVec.ofNat 8 (w / 256) :: BitVec.ofNat 8 w :: List.replicate 8 0)
  else
    match commandLength (BitVec.ofNat 8 w) with
    | some n => .cdb (bytesOf n w)
    | none => .cdb (bytesOf 6 w)

/-- The instruction the decoder reads from the bits of a table row; `none` where it refuses. -/
def decodeTableWord (nbits w : Nat) : Option Instr :=
  (decode (codeOfTableWord nbits w)).toOption

end Sys2Proof
end

