-- ==== Sys2Proof/Machine/Disc.lean ====
section
/-! DEFINITION. The disc as the core sees it: the TOC lookups and the sector read of 20_memory.md R73 and R74. -/

namespace Sys2Proof.Machine

/-- `trackEnd(t)`, as a natural (20_memory.md R74). -/
def trackEndNat (t : Track) : Nat := t.start.toNat + t.frames.toNat

/-- A natural as a u32 frame number; one past 32 bits, for which no rule states a value, is a free value (log 12). -/
def toFrame (n : Nat) : Frame := if n < 2 ^ 32 then BitVec.ofNat 32 n else Config.frameOverflow n

/-- `discEnd`: the end of the last track, as a natural (20_memory.md R74). -/
def discEnd (d : Disc) : Nat :=
  match d.tracks.getLast? with
  | some t => trackEndNat t
  | none => 0

/-- `lastFrame`: the end of the disc, or 0 when there is none (10_state.md R31). -/
def endOfDisc (disc : Option Disc) : Frame :=
  match disc with
  | some d => toFrame (discEnd d)
  | none => 0

/-- Whether frame f lies in track t. -/
def inTrack (f : Frame) (t : Track) : Bool := decide (t.start.toNat ≤ f.toNat) && decide (f.toNat < trackEndNat t)

/-- `trackOf(f)` among a list of tracks whose first has index i: the index and the track (20_memory.md R74). -/
def trackFrom (f : Frame) : Nat → List Track → Option (Nat × Track)
  | _, [] => none
  | i, t :: ts => if inTrack f t then some (i, t) else trackFrom f (i + 1) ts

/-- `trackOf(f)`: the index of the track f lies in and that track; `none` when there is none (20_memory.md R74). -/
def trackOf (d : Disc) (f : Frame) : Option (Nat × Track) := trackFrom f 0 d.tracks

/-- The sector the image holds for a frame: of two entries for it, the first (log 14). -/
def sectorAt (f : Frame) : List Sector → Option (List Byte)
  | [] => none
  | x :: xs => if x.frame = f then some x.bytes else sectorAt f xs

/-- `readSector(f)`: the 2048 bytes the image holds for a frame of a data track, or `none` for `failure` (20_memory.md R73);
which frames fail is the model's reading of "no readable data sector" (log 14). -/
def readSector (disc : Option Disc) (f : Frame) : Option (List Byte) :=
  match disc with
  | none => none
  | some d =>
    match trackOf d f with
    | some (_, t) =>
      match t.kind, sectorAt f d.sectors with
      | .data, some bytes => if bytes.length = Config.sectorBytes then some bytes else none
      | _, _ => none
    | none => none

end Sys2Proof.Machine
end

