-- ==== Sys2Proof/Machine/State.lean ====
section
/-! DEFINITION. The state of the block as plain data (10_state.md), its fault and refusal reasons, and the state at power-on. -/

namespace Sys2Proof.Machine

/-- The fault reasons of 60_exceptions.md R351. A step whose rule raises one answers it as its outcome, and the state it leaves is the
state before it with `fault` holding the reason (R352; log 2). -/
inductive Fault where
  /-- ProtocolViolation(UnknownOpcode(op)): raised by the dispatch of a command (40_bus_phases.md R149). Safe: the spec's own hard stop. -/
  | unknownOpcode (op : Byte)
  /-- ProtocolViolation(CommandOverflow): raised by a 257th command byte (40_bus_phases.md R148). Safe: the spec's own hard stop. -/
  | commandOverflow
  /-- Unmodelled(DataOut): raised by a handshake in the DataOut phase (40_bus_phases.md R153). Safe: stops where a part may go on. -/
  | dataOut
  /-- Unmodelled(PumpDiverged): raised by a pump with no fixed point in 8 passes (40_bus_phases.md R140). Safe: never reached. -/
  | pumpDiverged
  /-- Unmodelled(NoDisc): raised by GET-SUBCHANNEL-Q and GET-DIR-INFO with no disc (41_scsi_commands.md R198), and by a track address
  with no disc (30_encoding.md R109). Safe: stops where a part may reply. -/
  | noDisc
  /-- Unmodelled(TrackOutOfRange): raised by a track number outside the TOC (30_encoding.md R109, 41_scsi_commands.md R196). Safe. -/
  | trackOutOfRange
  /-- Unmodelled(FrameOutsideTracks): raised by `trackOf` of a frame in no track (20_memory.md R74). Safe. -/
  | frameOutsideTracks
  /-- Unmodelled(AddressType3): raised by an audio address of type 3 (30_encoding.md R109). Safe. -/
  | addressType3
  /-- Unmodelled(DirInfoSubFunction): raised by GET-DIR-INFO with a sub-function above 2 (41_scsi_commands.md R193). Safe. -/
  | dirInfoSubFunction
  /-- Unmodelled(NegativeLength): raised by a CD-DA start whose end lies before its start (41_scsi_commands.md R186, R188, R201). Safe. -/
  | negativeLength
  /-- IllegalHostOp: raised by a host-operation word of 30_encoding.md R101. Safe: the spec's own fault. -/
  | illegalHostOp
  deriving DecidableEq, Repr

/-- The agents of 10_state.md R20, named by what takes their step. -/
inductive Agent where
  | host | sectorTimer | dmaTimer | nibbleClock
  | fadeCdIn | fadeCdOut | fadeAdIn | fadeAdOut
  | audioEndPoll
  deriving DecidableEq, Repr

/-- Why a step gives no next state and no fault. -/
inductive Refusal where
  /-- Raised by `exec` for an instruction that has no meaning yet. No arm of this model does. Safe. -/
  | notModelled (mnemonic : String)
  /-- Raised by an EV instruction whose agent is not enabled: the schedule is not a run of the block and is rejected
  (30_encoding.md R103). Safe: the spec's own outcome "not enabled" (00_scope.md R10). -/
  | notEnabled (agent : Agent)
  /-- Raised by `step` when the host program has no operation left (10_state.md R21). Safe: the outcome "not enabled". -/
  | programEnded
  /-- Raised by `step` from a state with a recorded fault: "No later step of any agent is enabled" (60_exceptions.md R352). Safe: the
  outcome "not enabled". -/
  | faulted (reason : Fault)
  deriving DecidableEq, Repr

/-- The status of CD-DA playback, 10_state.md R32. -/
inductive PlaybackStatus where
  | off | playing | paused
  deriving DecidableEq, Repr

/-- The three fade periods, 43_fade.md R272. -/
inductive FadePeriod where
  | us100 | us1500 | us5000
  deriving DecidableEq, Repr

/-- A fade timer, 10_state.md R45. -/
inductive FadeTimer where
  | off
  | armed (period : FadePeriod)
  deriving DecidableEq, Repr

/-- One event of the history, 10_state.md R48: a read and its value, a collaborator call, a query and its answer, a flag, or an
`irq` level (20_memory.md R79, R84). -/
inductive Event where
  /-- A host read of a register and the value it returned. -/
  | read (r : RegIndex) (value : Byte)
  /-- `SectorSource.readSector(frame)`: whether it found a sector, and the bytes delivered. -/
  | readSector (frame : Frame) (ok : Bool) (bytes : List Byte)
  /-- `SectorSource.tableOfContents()` and its answer, the track list of the disc (20_memory.md R74, R84; log 15). -/
  | tableOfContents (tracks : List Track)
  /-- `SectorSource.trackOf(frame)` and its answer, the index of a track (20_memory.md R74, R84; log 15). -/
  | trackOf (frame : Frame) (index : Nat)
  /-- `Player.start(frame, frameCount)`. -/
  | playerStart (frame count : Frame)
  /-- `Player.pause(b)`. -/
  | playerPause (b : Bool)
  /-- `Player.stop()`. -/
  | playerStop
  /-- `Player.setVolume(v)`. -/
  | playerSetVolume (v : Nat)
  /-- `Player.currentFrame()` and its answer. -/
  | playerCurrentFrame (answer : Frame)
  /-- `Player.hasEndedSinceLastPoll()` and its answer. -/
  | playerHasEnded (answer : Bool)
  /-- `AdpcmClock.supplyNibble(n)`. -/
  | clockNibble (n : BitVec 4)
  /-- `AdpcmClock.setClockDivider(d)`. -/
  | clockDivider (d : Nat)
  /-- `AdpcmClock.reset(b)`. -/
  | clockReset (b : Bool)
  /-- `AdpcmClock.setVolume(v)`. -/
  | clockSetVolume (v : Nat)
  /-- The flag `UnknownFadeProgram(p)` (43_fade.md R275). -/
  | unknownFadeProgram (p : BitVec 4)
  /-- The `irq` level after a step. -/
  | irq (level : Bool)
  deriving DecidableEq, Repr

/-- BusState (10_state.md R22 to R30). -/
structure Bus where
  bsy : Bool
  sel : Bool
  cd  : Bool
  io  : Bool
  msg : Bool
  req : Bool
  ack : Bool
  atn : Bool
  rst : Bool
  /-- The controller's selection latch (R23). -/
  selected : Bool
  /-- `rst` as the previous pump saw it (R25). -/
  lastRst : Bool
  /-- The byte on the bus (R26). -/
  dataReg : Byte
  /-- The command bytes received so far (R27). -/
  commandBuffer : List Byte
  /-- The written prefix of `dataBuffer` (R28); every rule writes a prefix, and the bytes past it hold their power-on value. -/
  dataBuffer : List Byte
  dataIndex : Nat
  dataSize  : Nat
  messageAfterStatus : Bool
  statusSent  : Bool
  messageSent : Bool
  dataTransferred : Bool
  /-- The IRQ-source bits (R30). -/
  irqStatus : Byte
  deriving DecidableEq, Repr

/-- AudioTransportState (10_state.md R31 to R35). -/
structure Audio where
  currentFrame : Frame
  endFrame     : Frame
  lastFrame    : Frame
  playbackStatus   : PlaybackStatus
  playMode         : PlayMode
  endOfTrackArmed  : Bool
  sectorTimerArmed : Bool
  deriving DecidableEq, Repr

/-- AdpcmState (10_state.md R36 to R43). -/
structure Adpcm where
  /-- The bytes of ADPCM RAM that something has written, in rising order of address (R36). -/
  ram : List Host.Cell
  readPointer  : Addr
  writePointer : Addr
  readHoldoff  : Nat
  writeHoldoff : Nat
  /-- A u16 under PLAY_ADDR_WRAP, else a natural (R39, 42_adpcm_dma.md R241). -/
  playStartAddress : Nat
  playEndAddress   : Addr
  playHalfAddress  : Addr
  /-- false: the high nibble is next. -/
  nibbleSelector : Bool
  playing        : Bool
  lengthRegister : Addr
  dmaTimerArmed  : Bool
  dmaBusy        : Bool
  clockDivider   : Nat
  deriving DecidableEq, Repr

/-- One channel of the fade controller (10_state.md R45). -/
structure FadeChannel where
  volume  : Nat
  fadeIn  : FadeTimer
  fadeOut : FadeTimer
  deriving DecidableEq, Repr

/-- The whole state of the block, with the run's parameters and its schedule. -/
structure State where
  bus   : Bus
  audio : Audio
  adpcm : Adpcm
  /-- The stored bytes of the 16 host registers (10_state.md R40). -/
  reg   : Vector Byte 16
  bramLocked : Bool
  fadeCd : FadeChannel
  fadeAd : FadeChannel
  /-- The sticky fault (10_state.md R46). -/
  fault : Option Fault
  /-- The history of events, oldest first (10_state.md R48). -/
  hist  : List Event
  /-- The index of the next host operation (10_state.md R21). -/
  hpc   : Nat
  /-- The host program: the operations of the directed schedule (30_encoding.md R100, R103). -/
  program : List HostWord
  /-- The answers to `Player.currentFrame()` that the schedule gives, the next one first (30_encoding.md R103). -/
  answers : List Frame
  /-- The parameters of the run (10_state.md R49). -/
  config : Config
  /-- How many free values have been drawn. The model's own field. -/
  draws : Nat
  deriving DecidableEq, Repr

/-- BusState at power-on (10_state.md R51). -/
def Bus.powerOn : Bus where
  bsy := false
  sel := false
  cd := false
  io := false
  msg := false
  req := false
  ack := false
  atn := false
  rst := false
  selected := false
  lastRst := false
  dataReg := 0x00
  commandBuffer := []
  dataBuffer := []
  dataIndex := 0
  dataSize := 0
  messageAfterStatus := false
  statusSent := false
  messageSent := false
  dataTransferred := false
  irqStatus := 0x00

/-- AudioTransportState at power-on (10_state.md R51). -/
def Audio.powerOn (disc : Option Disc) : Audio where
  currentFrame := 0
  endFrame := endOfDisc disc
  lastFrame := endOfDisc disc
  playbackStatus := .off
  playMode := .noEnd
  endOfTrackArmed := false
  sectorTimerArmed := false

/-- AdpcmState at power-on (10_state.md R51). -/
def Adpcm.powerOn : Adpcm where
  ram := []
  readPointer := 0
  writePointer := 0
  readHoldoff := 0
  writeHoldoff := 0
  playStartAddress := 0
  playEndAddress := 0
  playHalfAddress := 0
  nibbleSelector := false
  playing := false
  lengthRegister := 0
  dmaTimerArmed := false
  dmaBusy := false
  clockDivider := 16

/-- A fade channel at power-on (10_state.md R45). -/
def FadeChannel.powerOn : FadeChannel where
  volume := 100
  fadeIn := .off
  fadeOut := .off

/-- The state at power-on under given parameters, with a host program and a list of player answers (10_state.md R51). -/
def State.powerOn (config : Config) (program : List HostWord) (answers : List Frame) : State where
  bus := .powerOn
  audio := .powerOn config.disc
  adpcm := .powerOn
  reg := Vector.replicate 16 0x00
  bramLocked := true
  fadeCd := .powerOn
  fadeAd := .powerOn
  fault := none
  hist := []
  hpc := 0
  program := program
  answers := answers
  config := config
  draws := 0

/-- The machine right after reset: power-on under the default parameters of 00_scope.md R7, with no program loaded. -/
def State.reset : State := State.powerOn Config.standard [] []

end Sys2Proof.Machine
end

