-- ==== Sys2Proof/Machine/Ops.lean ====
section
/-! DEFINITION. The named operations over registers, memory, the history and the free values, and the one operation that takes a
fault (60_exceptions.md R352). -/

namespace Sys2Proof.Machine

/-! ## Faults -/

/-- What every rule computes: the state it leaves, or the fault it raises. -/
abbrev Result := Except Fault State

/-- Taking a fault, 60_exceptions.md R352: "the state is the state before the step with `fault <- some(reason)`". There is no return
from it: "No reset recovers from a fault". -/
def takeFault (s : State) (f : Fault) : State := { s with fault := some f }

/-- The outcome of an instruction that ran from s: its next state, or, where a rule raised, the fault taken from s itself, which the
step that ran the instruction then answers as its outcome (60_exceptions.md R352; log 2). -/
def settle (s : State) (r : Result) : Host.Outcome State Fault Refusal :=
  match r with
  | .ok t => .next t
  | .error f => .next (takeFault s f)

/-! ## The history and the free values -/

/-- `emit`, and every other record of an event (20_memory.md R79). -/
def State.push (s : State) (e : Event) : State := { s with hist := s.hist ++ [e] }

/-- The record of several events, in order. -/
def State.record (s : State) (es : List Event) : State := { s with hist := s.hist ++ es }

/-- The byte the block draws next (00_scope.md R9 `draw`). -/
def drawnByte (s : State) : Byte := Config.freeByte s.draws

/-- The state after n values have been drawn. -/
def State.drew (s : State) (n : Nat) : State := { s with draws := s.draws + n }

/-- n drawn bytes from the k-th on. -/
def drawnBytes (k : Nat) : Nat → List Byte
  | 0 => []
  | n + 1 => Config.freeByte k :: drawnBytes (k + 1) n

/-- The player's answer to `currentFrame()`: the schedule's next answer (30_encoding.md R103), or any u32 (20_memory.md R84). -/
def playerFrame (s : State) : Frame :=
  match s.answers with
  | f :: _ => f
  | [] => Config.freeFrame s.draws

/-- The query `Player.currentFrame()` takes its answer and records it. -/
def askPlayerFrame (s : State) : State :=
  let t : State :=
    match s.answers with
    | _ :: rest => { s with answers := rest }
    | [] => s.drew 1
  t.push (.playerCurrentFrame (playerFrame s))

/-! ## Host registers -/

/-- `reg[r]`, the stored byte of a host register (10_state.md R40). -/
def State.getReg (s : State) (r : RegIndex) : Byte := s.reg[r]

/-- `reg[r] <- v`. -/
def State.setReg (s : State) (r : RegIndex) (v : Byte) : State := { s with reg := s.reg.set r v }

/-! ## ADPCM RAM (20_memory.md R72)

The list holds the bytes something has written, addresses strictly rising. An address it does not list has never been written: it
reads as no byte there, and `MemRead` gives its power-on content, which is a free value (10_state.md R36; log 5). -/

/-- What the list holds at an address: `none` when nothing has written it. -/
def readCell : List Host.Cell → Nat → Option Byte
  | [], _ => none
  | (b, v) :: rest, a => if a = b then some v else if a < b then none else readCell rest a

/-- The list with address a holding v. -/
def writeCell : List Host.Cell → Nat → Byte → List Host.Cell
  | [], a, v => [(a, v)]
  | (b, w) :: rest, a, v =>
    if a = b then (a, v) :: rest
    else if a < b then (a, v) :: (b, w) :: rest
    else (b, w) :: writeCell rest a v

/-- The addresses of a list are strictly rising and all at least `low`. -/
def risingFrom : Nat → List Host.Cell → Bool
  | _, [] => true
  | low, (a, _) :: rest => decide (low ≤ a) && risingFrom (a + 1) rest

/-- The addresses of a list are below `high`. -/
def cellsBelow (high : Nat) (m : List Host.Cell) : Bool := m.all fun c => decide (c.1 < high)

/-- The canonical form of ADPCM RAM: addresses strictly rising and inside the 65536 bytes. -/
def memoryWf (m : List Host.Cell) : Bool := risingFrom 0 m && cellsBelow Config.ramBytes m

/-- `MemRead(a, 1)`. -/
def memRead (s : State) (a : Nat) : Byte := (readCell s.adpcm.ram a).getD (Config.ramAtPowerOn a)

/-- `MemWrite(a, 1, v)`. -/
def memWrite (s : State) (a : Addr) (v : Byte) : State :=
  { s with adpcm.ram := writeCell s.adpcm.ram a.toNat v }

/-! ## dataBuffer (10_state.md R28) -/

/-- `DataBuf[i]`; a byte nothing has written holds its power-on content, a free value (log 6). -/
def dataByte (s : State) (i : Nat) : Byte := (s.bus.dataBuffer[i]?).getD (Config.dataBufferAtPowerOn i)

/-- A buffer whose first bytes are overwritten. -/
def overwrite (buffer bytes : List Byte) : List Byte := bytes ++ buffer.drop bytes.length

end Sys2Proof.Machine
end

