-- ==== Sys2Proof/Machine/Operands.lean ====
section
/-! DEFINITION. The operand forms: the field decoders of 30_encoding.md R109 to R116, the START_MODE table, and the track lookups that
raise. -/

namespace Sys2Proof.Machine

/-- `bcdDec`, with no digit check (30_encoding.md R111). -/
def bcdDec (b : Byte) : Nat := (b.extractLsb' 4 4).toNat * 10 + (b.extractLsb' 0 4).toNat

/-- `bcdEnc` (30_encoding.md R111). -/
def bcdEnc (n : Nat) : Byte := BitVec.ofNat 8 ((n / 10 % 16) * 16 + n % 10)

/-- `msf(f)`: minute, second and frame in BCD (30_encoding.md R112). -/
def msf (f : Nat) : List Byte := [bcdEnc (f / 4500), bcdEnc (f / 75 % 60), bcdEnc (f % 75)]

/-- The frame an MSF time names before the lead-in correction (30_encoding.md R109). -/
def msfFrames (minute second frame : Byte) : Nat := (bcdDec minute * 60 + bcdDec second) * 75 + bcdDec frame

/-- The lead-in correction: a subtraction only from a time that is not below it (30_encoding.md R109, 90_conflicts.md C2). -/
def leadInCorrected (leadIn f : Nat) : Nat := if leadIn ≤ f then f - leadIn else f

/-- The track of number t (1 for the first), `TrackOutOfRange` when the TOC has none (30_encoding.md R109, 41_scsi_commands.md R196). -/
def trackNumbered (d : Disc) (t : Nat) : Except Fault Track :=
  match t with
  | 0 => .error .trackOutOfRange
  | n + 1 =>
    match d.tracks[n]? with
    | some x => .ok x
    | none => .error .trackOutOfRange

/-- `audioAddr(c)`: the frame an audio address names (30_encoding.md R109). -/
def audioAddr (config : Config) : AudioAddr → Except Fault Frame
  | .lba frame => .ok (frame.setWidth 32)
  | .msf minute second frame => .ok (toFrame (leadInCorrected config.leadIn (msfFrames minute second frame)))
  | .track number =>
    match config.disc with
    | none => .error .noDisc
    | some d => (trackNumbered d (bcdDec number)).map Track.start
  | .reserved => .error .addressType3

/-- `trackOf(f)`, which raises for a frame in no track (20_memory.md R74). -/
def trackOrFault (d : Disc) (f : Frame) : Except Fault (Nat × Track) :=
  match trackOf d f with
  | some x => .ok x
  | none => .error .frameOutsideTracks

/-- The Sector Source queries of a lookup of the track a frame lies in: `trackOf`, then the table of contents for the fields of the
track it names (20_memory.md R84; log 15). A lookup that raises records nothing, since its step is undone. -/
def trackQueries (d : Disc) (f : Frame) : List Event :=
  match trackOf d f with
  | some (k, _) => [.trackOf f k, .tableOfContents d.tracks]
  | none => []

/-- The Sector Source queries of `audioAddr(c)`: a track number is decoded "via TOC lookup" (30_encoding.md R109, 20_memory.md R84;
log 15). -/
def addressQueries (config : Config) : AudioAddr → List Event
  | .track _ => config.disc.toList.map fun d => .tableOfContents d.tracks
  | .lba _ => []
  | .msf _ _ _ => []
  | .reserved => []

/-- The row of START_MODE for the mode bits `c[1][1:0]` (41_scsi_commands.md R187). -/
def startRow (table : StartModeTable) (mode : BitVec 2) : StartRow :=
  match mode.toNat with
  | 0 => table.row0
  | 1 => table.row1
  | 2 => table.row2
  | _ => table.row3

/-- The answer START_MODE is given outright for the mode bits and the start frame, the first one listed; `none` where its rows decide
(log 10). -/
def startGiven : List StartEntry → BitVec 2 → Frame → Option StartAnswer
  | [], _, _ => none
  | e :: rest, bits, f => if e.bits = bits ∧ e.start = f then some e.answer else startGiven rest bits f

/-- The end frame a row of START_MODE gives: the end of the track f lies in, or `lastFrame` (41_scsi_commands.md R187). -/
def startEnd (d : Disc) (lastFrame : Frame) (extent : Extent) (f : Frame) : Except Fault Frame :=
  match extent with
  | .thisTrack => (trackOrFault d f).map fun x => toFrame (trackEndNat x.2)
  | .wholeDisc => .ok lastFrame

/-- `START_MODE(bits, f)`, which raises where its row asks for the track of a frame in no track (41_scsi_commands.md R187). -/
def startMode (table : StartModeTable) (d : Disc) (lastFrame : Frame) (bits : BitVec 2) (f : Frame) :
    Except Fault StartAnswer :=
  match startGiven table.given bits f with
  | some answer => .ok answer
  | none =>
    let row := startRow table bits
    (startEnd d lastFrame row.extent f).map fun e => { endFrame := e, mode := row.mode, armed := row.armed }

/-- The Sector Source queries of `START_MODE(bits, f)`: a row that plays to the end of a track looks the track up (20_memory.md R84;
log 15). -/
def startQueries (table : StartModeTable) (d : Disc) (bits : BitVec 2) (f : Frame) : List Event :=
  match startGiven table.given bits f, (startRow table bits).extent with
  | none, .thisTrack => trackQueries d f
  | none, .wholeDisc => []
  | some _, _ => []

/-- The play mode of a 2-bit code (10_state.md R33, 30_encoding.md R113). -/
def playModeOf (code : BitVec 2) : PlayMode :=
  match code.toNat with
  | 0 => .noEnd
  | 1 => .repeats
  | 2 => .irqAtEnd
  | _ => .stopAtEnd

/-- `addr16`, the pair of registers 0x9 (high) and 0x8 (low) (30_encoding.md R116). -/
def addr16 (s : State) : Addr := s.getReg 0x9 ++ s.getReg 0x8

/-- The playback-rate field of a byte (30_encoding.md R116). -/
def rateField (v : Byte) : BitVec 4 := v.extractLsb' 0 4

/-- The clock divider of a rate byte: 16 less the rate, 1 to 16 (42_adpcm_dma.md R243). -/
def dividerOf (v : Byte) : Nat := 16 - (rateField v).toNat

/-- The fade-program code of a byte (30_encoding.md R116). -/
def fadeCode (v : Byte) : BitVec 4 := v.extractLsb' 0 4

/-- Whether an access at an offset from REG_BASE goes to the Arcade Card bank, or may: with the card present and its bit OPEN, any
offset with a bit above 3 may (20_memory.md R71; the last is the model's choice, log 21). -/
def arcadeRouted (config : Config) (offset : Nat) : Bool :=
  config.arcadeCard &&
    match config.arcadeBit with
    | some b => offset.testBit (4 + b)
    | none => decide (16 ≤ offset)

/-- The register a host address selects: offset bits 3:0 from REG_BASE, unless the access goes to the Arcade Card bank, which is no step
of this block (20_memory.md R71, 44_host_registers.md R318). The spec is silent on three points, where the model chooses (log 21): an
address below REG_BASE selects no register; while REG_BASE is OPEN no address does; and an offset with a bit above 3 selects a register
by its bits 3:0 also with the card present, when it is not routed to the card's bank. -/
def hostIndex (config : Config) (address : Nat) : Option RegIndex :=
  match config.regBase with
  | none => none
  | some base =>
    if address < base || arcadeRouted config (address - base) then none else some (Fin.ofNat 16 (address - base))

/-- The ADPCM sample clock in Hz, timing only (42_adpcm_dma.md R243). -/
def sampleClockHz (s : State) : Nat := s.config.adpcmBaseClock / (6 * s.adpcm.clockDivider)

/-- The period of a fade timer in microseconds, timing only (43_fade.md R272). -/
def fadeMicros : FadePeriod → Nat
  | .us100 => 100
  | .us1500 => 1500
  | .us5000 => 5000

end Sys2Proof.Machine
end

