-- ==== Sys2Proof/Machine/Flags.lean ====
section
/-! DEFINITION. The status bytes and flag bits: the SCSI status byte, the IRQ-source bits and the irq line, the bus phase, and the
bytes that registers 0x0, 0x3, 0x7 and 0xC derive from other state. -/

namespace Sys2Proof.Machine

/-- The SCSI status a command replies (40_bus_phases.md R151). -/
inductive Status where
  | ok | check
  deriving DecidableEq, Repr

/-- `statusByte(code)`: OK is 0x00 and CHECK-CONDITION 0x01 (40_bus_phases.md R151, 90_conflicts.md C1). -/
def statusByte : Status → Byte
  | .ok => 0x00
  | .check => 0x01

/-- The message byte (30_encoding.md R115). -/
def messageByte : Byte := 0x00

/-- The bit of IRQ_READY in `irqStatus` (10_state.md R30). -/
def irqReady : Byte := 0x40

/-- The bit of IRQ_DONE in `irqStatus` (10_state.md R30). -/
def irqDone : Byte := 0x20

/-- The bits a write to register 0x0 clears: 6, 5 and 4 (44_host_registers.md R300). -/
def irqTransfer : Byte := 0x70

/-- The bits register 0x3 shows and register 0x2 enables: 6 to 2 (44_host_registers.md R302, R303). -/
def irqShown : Byte := 0x7C

/-- The `irq` line (10_state.md R47). -/
def irqLine (s : State) : Bool := (s.getReg 0x2 &&& s.bus.irqStatus &&& irqShown) != 0

/-- The phases of the bus (40_bus_phases.md R144). -/
inductive Phase where
  | busFree | command | status | messageIn | messageOut | dataIn | dataOut
  deriving DecidableEq, Repr

/-- The phase as a function of the lines (40_bus_phases.md R144). -/
def phaseOf (b : Bus) : Phase :=
  match b.bsy, b.cd, b.msg, b.io with
  | false, _, _, _ => .busFree
  | true, true, false, false => .command
  | true, true, false, true => .status
  | true, true, true, true => .messageIn
  | true, true, true, false => .messageOut
  | true, false, _, true => .dataIn
  | true, false, _, false => .dataOut

/-- A boolean as the bit `mask` of a byte. -/
def bitIf (b : Bool) (mask : Byte) : Byte := if b then mask else 0

/-- What register 0x0 reads: BSY, REQ, MSG, C/D and I/O in bits 7 to 3 (44_host_registers.md R303). -/
def busLines (b : Bus) : Byte :=
  bitIf b.bsy 0x80 ||| bitIf b.req 0x40 ||| bitIf b.msg 0x20 ||| bitIf b.cd 0x10 ||| bitIf b.io 0x08

/-- What register 0x3 reads, with a drawn byte for bits 7, 1 and 0 (44_host_registers.md R303). -/
def irqByte (irqStatus drawn : Byte) : Byte := (irqStatus &&& irqShown) ||| (drawn &&& 0x83)

/-- What register 0x7 reads: bit 7 is 1 while BRAM is unlocked (44_host_registers.md R309). -/
def bramByte (s : State) : Byte := (s.getReg 0x7 &&& 0x7F) ||| bitIf (!s.bramLocked) 0x80

/-- What register 0xC reads: PLAY, BUSY and STOP in bits 3, 2 and 0 (44_host_registers.md R313). -/
def adpcmStatus (a : Adpcm) : Byte := bitIf a.playing 0x08 ||| bitIf a.dmaBusy 0x04 ||| bitIf (!a.playing) 0x01

end Sys2Proof.Machine
end

