-- ==== Sys2Proof/Machine/Commands.lean ====
section
/-! DEFINITION. The command handlers of 41_scsi_commands.md, as the dispatch of the pump calls them, and the meanings of the command
rows: an instruction that is a command is its handler, run from the state the dispatch hands it (log 19). -/

namespace Sys2Proof.Machine

/-- `replyStatus(code)` (40_bus_phases.md R150). -/
def replyStatus (code : Status) (s : State) : State :=
  { s with
    bus.cd := true, bus.io := true, bus.req := true, bus.msg := false
    bus.messageAfterStatus := true, bus.statusSent := false, bus.messageSent := false
    bus.dataReg := statusByte code }

/-- A handler's data reply: the bytes, the cursor, and the switch to DataIn (41_scsi_commands.md R180, R192, R193). -/
def replyData (bytes : List Byte) (s : State) : State :=
  { s with
    bus.dataBuffer := overwrite s.bus.dataBuffer bytes
    bus.dataIndex := 0, bus.dataSize := bytes.length, bus.dataTransferred := true
    bus.io := true, bus.cd := false }

/-- TEST-UNIT-READY (41_scsi_commands.md R181). -/
def testUnitReady (s : State) : Result :=
  match s.config.disc with
  | some _ => .ok (replyStatus .ok s)
  | none => .ok (replyStatus .check s)

/-- READ(6)'s stop of active CD-DA (41_scsi_commands.md R182, R184). -/
def stopActiveAudio (s : State) : State :=
  match s.audio.playbackStatus with
  | .off => s
  | _ => { s with audio.playbackStatus := .off, audio.endOfTrackArmed := false }.push .playerStop

/-- READ(6) (41_scsi_commands.md R182). -/
def read6 (frame : BitVec 21) (count : Byte) (s : State) : Result :=
  match s.config.disc with
  | none => .ok (replyStatus .check s)
  | some _ =>
    if count = 0 then .ok (replyStatus .ok s)
    else .ok { stopActiveAudio s with
      audio.currentFrame := frame.setWidth 32
      audio.endFrame := toFrame (frame.toNat + count.toNat)
      audio.sectorTimerArmed := true }

/-- `Player.start(f, e - f)`, which raises when the end lies before the start (41_scsi_commands.md R186, R188, R201). -/
def startPlayer (f e : Frame) (s : State) : Result :=
  if e < f then .error .negativeLength else .ok (s.push (.playerStart f (e - f)))

/-- SET-AUDIO-START (41_scsi_commands.md R186, R187). -/
def setAudioStart (mode : BitVec 2) (addr : AudioAddr) (s : State) : Result :=
  match s.config.disc with
  | none => .ok (replyStatus .check s)
  | some d => do
    let f ← audioAddr s.config addr
    let x ← startMode s.config.startMode d s.audio.lastFrame mode f
    let t ← startPlayer f x.endFrame
      { s.record (addressQueries s.config addr ++ startQueries s.config.startMode d mode f) with
        audio.currentFrame := f, audio.endFrame := x.endFrame, audio.playMode := x.mode
        audio.endOfTrackArmed := x.armed, audio.playbackStatus := .playing }
    return replyStatus .ok t

/-- The player's part of a resume or a start at SET-AUDIO-END (41_scsi_commands.md R188). -/
def resumePlayer (f : Frame) (s : State) : Result :=
  match s.audio.playbackStatus with
  | .paused => .ok (s.push (.playerPause false))
  | _ => startPlayer s.audio.currentFrame f s

/-- SET-AUDIO-END with a mode other than 0: resume or start (41_scsi_commands.md R188). -/
def resumeOrStart (f : Frame) (s : State) : Result := do
  let t ← resumePlayer f s
  return { t with audio.playbackStatus := .playing, audio.endOfTrackArmed := true }

/-- SET-AUDIO-END with mode 0: stop (41_scsi_commands.md R188). -/
def stopAtOnce (s : State) : State :=
  { s with
    audio.playbackStatus := .off, audio.endFrame := s.audio.lastFrame
    audio.endOfTrackArmed := false }.push .playerStop

/-- What SET-AUDIO-END does to playback, by its mode (41_scsi_commands.md R188). -/
def endPlayback (mode : BitVec 2) (f : Frame) (s : State) : Result :=
  if mode = 0 then .ok (stopAtOnce s) else resumeOrStart f s

/-- SET-AUDIO-END (41_scsi_commands.md R188). -/
def setAudioEnd (mode : BitVec 2) (addr : AudioAddr) (s : State) : Result :=
  match s.config.disc with
  | none => .ok (replyStatus .check s)
  | some _ => do
    let f ← audioAddr s.config addr
    let t ← endPlayback mode f
      { s.record (addressQueries s.config addr) with audio.endFrame := f, audio.playMode := playModeOf mode }
    return replyStatus .ok t

/-- PAUSE (41_scsi_commands.md R189). -/
def pause (s : State) : Result :=
  match s.config.disc, s.audio.playbackStatus with
  | none, _ => .ok (replyStatus .check s)
  | some _, .off => .ok (replyStatus .check s)
  | some _, _ =>
    .ok (replyStatus .ok ({ askPlayerFrame s with
      audio.playbackStatus := .paused, audio.currentFrame := playerFrame s }.push (.playerPause true)))

/-- The play-status code of GET-SUBCHANNEL-Q (41_scsi_commands.md R190). -/
def playStatusCode : PlaybackStatus → Byte
  | .playing => 0x00
  | .paused => 0x02
  | .off => 0x03

/-- The position GET-SUBCHANNEL-Q reports (41_scsi_commands.md R190). -/
def reportedFrame (s : State) : Frame :=
  match s.audio.playbackStatus with
  | .off => s.audio.currentFrame
  | _ => playerFrame s

/-- The state after GET-SUBCHANNEL-Q has asked the player, which it does unless playback is off (41_scsi_commands.md R190). -/
def askPosition (s : State) : State :=
  match s.audio.playbackStatus with
  | .off => s
  | _ => askPlayerFrame s

/-- The ten bytes of a GET-SUBCHANNEL-Q reply (41_scsi_commands.md R191, R192): t is the track's index, `start` its first frame. -/
def subchannelReply (code : Byte) (t start f : Nat) : List Byte :=
  [code, 0x00, bcdEnc (t + 1), 0x01] ++ msf (f - start) ++ msf f

/-- GET-SUBCHANNEL-Q (41_scsi_commands.md R190 to R192, R198). -/
def getSubchannelQ (s : State) : Result :=
  match s.config.disc with
  | none => .error .noDisc
  | some d => do
    let f := reportedFrame s
    let (t, track) ← trackOrFault d f
    return replyData (subchannelReply (playStatusCode s.audio.playbackStatus) t track.start.toNat f.toNat)
      ((askPosition s).record (trackQueries d f))

/-- The disc of GET-DIR-INFO, which raises when there is none (41_scsi_commands.md R193, R198). -/
def discOrFault (s : State) : Except Fault Disc :=
  match s.config.disc with
  | none => .error .noDisc
  | some d => .ok d

/-- The query `SectorSource.tableOfContents()` with its answer recorded, the "TOC lookup" of a GET-DIR-INFO (41_scsi_commands.md R193,
20_memory.md R84; log 15). -/
def askToc (d : Disc) (s : State) : State := s.push (.tableOfContents d.tracks)

/-- The offset from a disc frame to the time on the disc, in the GET-DIR-INFO replies (41_scsi_commands.md R195). -/
def leadInOffset : Nat := 150

/-- GET-DIR-INFO sub-function 0x00: first and last track (41_scsi_commands.md R194). -/
def dirInfoTracks (s : State) : Result := do
  let d ← discOrFault s
  return replyData [bcdEnc 1, bcdEnc d.tracks.length] (askToc d s)

/-- GET-DIR-INFO sub-function 0x01: total disc size (41_scsi_commands.md R195). -/
def dirInfoDiscSize (s : State) : Result := do
  let d ← discOrFault s
  return replyData (msf (discEnd d + leadInOffset)) (askToc d s)

/-- The track-type byte of GET-DIR-INFO (41_scsi_commands.md R196). -/
def trackTypeByte : TrackKind → Byte
  | .audio => 0x00
  | .data => 0x04

/-- The start frame and type byte of a track, of the lead-out for 0xAA; track 0 reads as track 1 (41_scsi_commands.md R196). -/
def trackStartAndType (d : Disc) (track : Byte) : Except Fault (Nat × Byte) :=
  if track = 0xAA then .ok (discEnd d, 0x04)
  else (trackNumbered d (max (bcdDec track) 1)).map fun x => (x.start.toNat, trackTypeByte x.kind)

/-- GET-DIR-INFO sub-function 0x02: track start and type (41_scsi_commands.md R196). -/
def dirInfoTrackStart (track : Byte) (s : State) : Result := do
  let d ← discOrFault s
  let (f, kind) ← trackStartAndType d track
  return replyData (msf (f + leadInOffset) ++ [kind]) (askToc d s)

/-- GET-DIR-INFO (41_scsi_commands.md R193). -/
def getDirInfo (subFunction track : Byte) (s : State) : Result :=
  match s.config.disc with
  | none => .error .noDisc
  | some _ =>
    match subFunction.toNat with
    | 0 => dirInfoTracks s
    | 1 => dirInfoDiscSize s
    | 2 => dirInfoTrackStart track s
    | _ => .error .dirInfoSubFunction

/-- `handler(op)(c)` (41_scsi_commands.md R180). -/
def handler : Command → State → Result
  | .testUnitReady => testUnitReady
  | .read6 frame count => read6 frame count
  | .setAudioStart mode addr => setAudioStart mode addr
  | .setAudioEnd mode addr => setAudioEnd mode addr
  | .pause => pause
  | .getSubchannelQ => getSubchannelQ
  | .getDirInfo subFunction track => getDirInfo subFunction track

/-- The audio command an AUDIO-ADDR row stands in, with its address (30_encoding.md R109). -/
def audioCommand (cmd : AudioCommand) (mode : BitVec 2) (addr : AudioAddr) (s : State) : Result :=
  match cmd with
  | .start => setAudioStart mode addr s
  | .finish => setAudioEnd mode addr s

/-! ## The meanings of the command rows -/

/-- TEST-UNIT-READY, 41_scsi_commands.md R181. -/
def execTestUnitReady (s : State) : Host.Outcome State Fault Refusal := settle s (testUnitReady s)

/-- READ(6), 41_scsi_commands.md R182. -/
def execRead6 (frame : BitVec 21) (count : Byte) (s : State) : Host.Outcome State Fault Refusal :=
  settle s (read6 frame count s)

/-- SET-AUDIO-START, 41_scsi_commands.md R186. -/
def execSetAudioStart (mode : BitVec 2) (addr : AudioAddr) (s : State) : Host.Outcome State Fault Refusal :=
  settle s (setAudioStart mode addr s)

/-- SET-AUDIO-END, 41_scsi_commands.md R188. -/
def execSetAudioEnd (mode : BitVec 2) (addr : AudioAddr) (s : State) : Host.Outcome State Fault Refusal :=
  settle s (setAudioEnd mode addr s)

/-- PAUSE, 41_scsi_commands.md R189. -/
def execPause (s : State) : Host.Outcome State Fault Refusal := settle s (pause s)

/-- GET-SUBCHANNEL-Q, 41_scsi_commands.md R190. -/
def execGetSubchannelQ (s : State) : Host.Outcome State Fault Refusal := settle s (getSubchannelQ s)

/-- GET-DIR-INFO, 41_scsi_commands.md R193. -/
def execGetDirInfo (subFunction track : Byte) (s : State) : Host.Outcome State Fault Refusal :=
  settle s (getDirInfo subFunction track s)

/-- GET-DIR-INFO sub-function 0, 41_scsi_commands.md R194. -/
def execDirInfoTracks (s : State) : Host.Outcome State Fault Refusal := settle s (dirInfoTracks s)

/-- GET-DIR-INFO sub-function 1, 41_scsi_commands.md R195. -/
def execDirInfoDiscSize (s : State) : Host.Outcome State Fault Refusal := settle s (dirInfoDiscSize s)

/-- GET-DIR-INFO sub-function 2, 41_scsi_commands.md R196. -/
def execDirInfoTrackStart (track : Byte) (s : State) : Host.Outcome State Fault Refusal :=
  settle s (dirInfoTrackStart track s)

/-- An audio command with an LBA address, 30_encoding.md R109 type 0. -/
def execAudioAddrLba (cmd : AudioCommand) (mode : BitVec 2) (frame : BitVec 24) (s : State) :
    Host.Outcome State Fault Refusal :=
  settle s (audioCommand cmd mode (.lba frame) s)

/-- An audio command with an MSF address, 30_encoding.md R109 type 1. -/
def execAudioAddrMsf (cmd : AudioCommand) (mode : BitVec 2) (minute second frame : Byte) (s : State) :
    Host.Outcome State Fault Refusal :=
  settle s (audioCommand cmd mode (.msf minute second frame) s)

/-- An audio command with a track address, 30_encoding.md R109 type 2. -/
def execAudioAddrTrack (cmd : AudioCommand) (mode : BitVec 2) (number : Byte) (s : State) :
    Host.Outcome State Fault Refusal :=
  settle s (audioCommand cmd mode (.track number) s)

/-- An audio command with an address of type 3, which raises once the command decodes it (30_encoding.md R109). -/
def execAudioAddrReserved (cmd : AudioCommand) (mode : BitVec 2) (s : State) : Host.Outcome State Fault Refusal :=
  settle s (audioCommand cmd mode .reserved s)

end Sys2Proof.Machine
end

