-- ==== Sys2Proof/Machine/Bus.lean ====
section
/-! DEFINITION. The bus phase state machine of 40_bus_phases.md: the passes of the pump, the dispatch of a command, the pump itself
and the data accessor. -/

namespace Sys2Proof.Machine

/-! ## P1 to P3: reset edge, release, selection -/

/-- `resetEffects()` (40_bus_phases.md R141). -/
def resetEffects (s : State) : State :=
  { s with
    bus.bsy := false, bus.sel := false, bus.cd := false, bus.io := false, bus.msg := false
    bus.req := false, bus.atn := false, bus.selected := false
    audio.playbackStatus := .off
    adpcm.dmaTimerArmed := false }.push .playerStop

/-- P1, the reset edge: `rst` against the level the previous pump saw (40_bus_phases.md R140, R141). -/
def resetEdge (s : State) : State :=
  if s.bus.rst = s.bus.lastRst then s
  else
    let t := if s.bus.rst then resetEffects s else s
    { t with bus.lastRst := t.bus.rst }

/-- P2, the bus release, once per tenure (40_bus_phases.md R142). -/
def busRelease (s : State) : State :=
  if !s.bus.sel && !s.bus.bsy && s.bus.selected then
    { s with
      bus.selected := false, bus.cd := false, bus.msg := false, bus.io := false, bus.req := false
      bus.irqStatus := s.bus.irqStatus &&& ~~~irqDone }
  else s

/-- P3, the selection (40_bus_phases.md R143). -/
def select (s : State) : State :=
  if s.bus.sel && !s.bus.selected then
    { s with
      bus.selected := true, bus.bsy := true, bus.req := true, bus.cd := true
      bus.io := false, bus.msg := false }
  else s

/-! ## P4: the phase steps -/

/-- MessageIn (40_bus_phases.md R145). -/
def messageInStep (s : State) : State :=
  if s.bus.req && s.bus.ack then { s with bus.req := false, bus.messageSent := true }
  else if !s.bus.req && !s.bus.ack && s.bus.messageSent then { s with bus.messageSent := false, bus.bsy := false }
  else s

/-- Status (40_bus_phases.md R147). -/
def statusStep (s : State) : State :=
  if s.bus.req && s.bus.ack then { s with bus.req := false, bus.statusSent := true }
  else if !s.bus.req && !s.bus.ack && s.bus.statusSent then
    let t : State := { s with bus.statusSent := false }
    if t.bus.messageAfterStatus then
      { t with bus.messageAfterStatus := false, bus.msg := true, bus.req := true, bus.dataReg := messageByte }
    else t
  else s

/-- The dispatch of a command buffer that is not empty (40_bus_phases.md R149). -/
def dispatch (op : Byte) (s : State) : Result :=
  match commandLength op with
  | none => .error (.unknownOpcode op)
  | some n =>
    if s.bus.commandBuffer.length = n then
      match decodeCommand s.bus.commandBuffer with
      | .ok c => handler c { s with bus.commandBuffer := [] }
      | .error _ => .error (.unknownOpcode op)
    else .ok { s with bus.req := true }

/-- Command: byte accumulation and dispatch (40_bus_phases.md R148, R149). -/
def commandStep (s : State) : Result :=
  if s.bus.req && s.bus.ack then
    if s.bus.commandBuffer.length = Config.commandCapacity then .error .commandOverflow
    else .ok { s with bus.commandBuffer := s.bus.commandBuffer ++ [s.bus.dataReg], bus.req := false }
  else if !s.bus.req && !s.bus.ack then
    match s.bus.commandBuffer with
    | [] => .ok s
    | op :: _ => dispatch op s
  else .ok s

/-- The end of the data-in buffer: IRQ_READY clears, and after the last transfer the OK status follows with IRQ_DONE
(40_bus_phases.md R152). -/
def dataDrained (s : State) : State :=
  let t : State := { s with bus.irqStatus := s.bus.irqStatus &&& ~~~irqReady }
  if t.bus.dataTransferred then
    let u := replyStatus .ok { t with bus.dataTransferred := false }
    { u with bus.irqStatus := u.bus.irqStatus ||| irqDone }
  else t

/-- DataIn (40_bus_phases.md R152). -/
def dataInStep (s : State) : State :=
  if s.bus.req && s.bus.ack then { s with bus.req := false }
  else if !s.bus.req && !s.bus.ack then
    if s.bus.dataIndex = s.bus.dataSize then dataDrained s
    else { s with
      bus.dataReg := dataByte s s.bus.dataIndex
      bus.dataIndex := s.bus.dataIndex + 1
      bus.req := true }
  else s

/-- DataOut: the sink is not specified (40_bus_phases.md R153). -/
def dataOutStep (s : State) : Result :=
  if s.bus.req && s.bus.ack then .error .dataOut else .ok s

/-- `phaseStep(phase)` (40_bus_phases.md R144 to R153); MessageOut has no step (R146). -/
def phaseStep (p : Phase) (s : State) : Result :=
  match p with
  | .busFree => .ok s
  | .command => commandStep s
  | .status => .ok (statusStep s)
  | .messageIn => .ok (messageInStep s)
  | .messageOut => .ok s
  | .dataIn => .ok (dataInStep s)
  | .dataOut => dataOutStep s

/-! ## The pump -/

/-- P1, P2 and P3 of a pass, in order (40_bus_phases.md R140). -/
def linePasses (s : State) : State := select (busRelease (resetEdge s))

/-- P4 of a pass (40_bus_phases.md R140, R144). -/
def phasePass (s : State) : Result :=
  if s.bus.bsy && !s.bus.atn then phaseStep (phaseOf s.bus) s else .ok s

/-- `pass()` (40_bus_phases.md R140). -/
def pass (s : State) : Result := phasePass (linePasses s)

/-- The fields of which every pass that changes the state changes one (Laws.pass_key): what the pump compares (log 13). -/
structure BusKey where
  lines : List Bool
  commandBytes : Nat
  dataIndex : Nat
  dataSize : Nat
  irqStatus : Byte
  deriving DecidableEq, Repr

/-- The key of a state. -/
def busKey (b : Bus) : BusKey where
  lines := [b.bsy, b.sel, b.cd, b.io, b.msg, b.req, b.ack, b.atn, b.rst, b.selected, b.lastRst,
    b.messageAfterStatus, b.statusSent, b.messageSent, b.dataTransferred]
  commandBytes := b.commandBuffer.length
  dataIndex := b.dataIndex
  dataSize := b.dataSize
  irqStatus := b.irqStatus

/-- At most n passes, to the first that changes nothing (40_bus_phases.md R140). -/
def pumpUpTo : Nat → State → Result
  | 0, _ => .error .pumpDiverged
  | n + 1, s =>
    match pass s with
    | .error f => .error f
    | .ok t => if busKey t.bus = busKey s.bus then .ok t else pumpUpTo n t

/-- `pump()` (40_bus_phases.md R140). -/
def pump (s : State) : Result := pumpUpTo 8 s

/-! ## The data accessor -/

/-- A data-in byte is offered (40_bus_phases.md R155). -/
def byteOffered (b : Bus) : Bool := b.req && !b.ack && !b.cd && b.io

/-- The ACK pulse of the accessor, with a pump at each level (40_bus_phases.md R155). -/
def ackPulse (s : State) : Result := do
  let t ← pump { s with bus.ack := true }
  pump { t with bus.ack := false }

/-- The state `accessor()` leaves; the value it returns is `dataReg` as it was before (40_bus_phases.md R155). -/
def accessor (s : State) : Result :=
  if byteOffered s.bus then ackPulse s else .ok s

end Sys2Proof.Machine
end

