-- ==== Sys2Proof/Machine/Adpcm.lean ====
section
/-! DEFINITION. The ADPCM engine of 42_adpcm_dma.md: the DMA control register, the RAM data port, the control register, play start, the
DMA and nibble ticks, and the playback rate. -/

namespace Sys2Proof.Machine

/-! ## Register writes -/

/-- `dmaControlWrite(v)` (42_adpcm_dma.md R231). -/
def dmaControlWrite (v : Byte) (s : State) : State :=
  let t := s.setReg 0xB v
  if v.extractLsb' 0 2 = 0 then t else { t with adpcm.dmaTimerArmed := true, adpcm.dmaBusy := true }

/-- One byte stored at `writePointer`, which advances by 1 modulo 65536 (42_adpcm_dma.md R232, R234). -/
def storeAtWritePointer (v : Byte) (s : State) : State :=
  { memWrite s s.adpcm.writePointer v with adpcm.writePointer := s.adpcm.writePointer + 1 }

/-- `portWrite(v)` (42_adpcm_dma.md R234). -/
def portWrite (v : Byte) (s : State) : State :=
  let t := s.setReg 0xA v
  if t.adpcm.writeHoldoff = 0 then storeAtWritePointer v t
  else { t with adpcm.writeHoldoff := t.adpcm.writeHoldoff - 1 }

/-- What `portRead()` returns (42_adpcm_dma.md R236). -/
def portValue (s : State) : Byte :=
  if s.adpcm.readHoldoff = 0 then memRead s s.adpcm.readPointer.toNat else 0x00

/-- The state `portRead()` leaves (42_adpcm_dma.md R236). -/
def portRead (s : State) : State :=
  if s.adpcm.readHoldoff = 0 then { s with adpcm.readPointer := s.adpcm.readPointer + 1 }
  else { s with adpcm.readHoldoff := s.adpcm.readHoldoff - 1 }

/-- Play start (42_adpcm_dma.md R238). -/
def playStart (s : State) : State :=
  { s with
    adpcm.playStartAddress := s.adpcm.readPointer.toNat
    adpcm.playEndAddress := s.adpcm.readPointer + s.adpcm.lengthRegister
    adpcm.playHalfAddress := s.adpcm.readPointer + s.adpcm.lengthRegister / 2
    adpcm.nibbleSelector := false
    adpcm.playing := true }.push (.clockReset false)

/-- A stop of playback, with the reset of the decoder (42_adpcm_dma.md R237, R241). -/
def playStop (s : State) : State := { s with adpcm.playing := false }.push (.clockReset true)

/-- The ADPCM reset: bit 7 of the control register falls (42_adpcm_dma.md R237). -/
def adpcmReset (s : State) : State :=
  playStop { s with
    adpcm.readPointer := 0, adpcm.writePointer := 0
    adpcm.playStartAddress := 0, adpcm.playEndAddress := 0, adpcm.playHalfAddress := 0
    adpcm.nibbleSelector := false }

/-- Bit 7 of a control write: the reset on its falling edge (42_adpcm_dma.md R237). -/
def controlReset (old v : Byte) (s : State) : State := if old[7] && !v[7] then adpcmReset s else s

/-- Bit 6 of a control write: play start on its rising edge, stop while it is 0 (42_adpcm_dma.md R237). -/
def controlPlay (old v : Byte) (s : State) : State :=
  if v[6] && !old[6] then playStart s else if !v[6] then playStop s else s

/-- Bit 4 of a control write: the length (42_adpcm_dma.md R237, R239). -/
def controlLength (a : Addr) (v : Byte) (s : State) : State :=
  if v[4] then { s with adpcm.lengthRegister := a } else s

/-- Bit 3 of a control write: the read address (42_adpcm_dma.md R237, R239). -/
def controlReadAddress (a : Addr) (v : Byte) (s : State) : State :=
  if v[3] then { s with adpcm.readPointer := a, adpcm.readHoldoff := Config.readHoldoffRearm } else s

/-- Bits 1 and 0 of a control write: the write address and its holdoff (42_adpcm_dma.md R237, R239). -/
def controlWriteAddress (a : Addr) (v : Byte) (s : State) : State :=
  if v[1] then { s with adpcm.writePointer := a, adpcm.writeHoldoff := if v[0] then 1 else 0 } else s

/-- `adpcmControlWrite(v)` (42_adpcm_dma.md R237). -/
def adpcmControlWrite (v : Byte) (s : State) : State :=
  let old := s.getReg 0xD
  let a := addr16 s
  (controlWriteAddress a v (controlReadAddress a v (controlLength a v
    (controlPlay old v (controlReset old v s))))).setReg 0xD v

/-- `rateWrite(v)` (42_adpcm_dma.md R243). -/
def rateWrite (v : Byte) (s : State) : State :=
  { s.setReg 0xE v with adpcm.clockDivider := dividerOf v }.push (.clockDivider (dividerOf v))

/-! ## Ticks -/

/-- A DMA tick that finds no byte offered: a stall (42_adpcm_dma.md R232). -/
def dmaStall (s : State) : State :=
  let t : State := { s with adpcm.dmaBusy := false }
  if t.config.dmaAutoDisarm && !t.audio.sectorTimerArmed then { t with adpcm.dmaTimerArmed := false } else t

/-- A DMA tick that moves the byte offered (42_adpcm_dma.md R232). -/
def dmaMove (s : State) : Result := do
  let t ← accessor s
  return { storeAtWritePointer s.bus.dataReg t with adpcm.dmaBusy := true }

/-- A DMA tick before its pump (42_adpcm_dma.md R232). -/
def dmaTransfer (s : State) : Result := if byteOffered s.bus then dmaMove s else .ok (dmaStall s)

/-- `dmaTick()` (42_adpcm_dma.md R232). -/
def dmaTick (s : State) : Result := do
  let t ← dmaTransfer s
  pump t

/-- The play address after a byte (42_adpcm_dma.md R241). -/
def nextPlayAddress (wrap : Bool) (a : Nat) : Nat := if wrap then (a + 1) % Config.ramBytes else a + 1

/-- The byte being played (42_adpcm_dma.md R241). -/
def playedByte (s : State) : Byte := memRead s (s.adpcm.playStartAddress % Config.ramBytes)

/-- The low nibble: the address advances, and playback stops once it is past the end (42_adpcm_dma.md R241). Reaching
`playHalfAddress` is inert (R242). -/
def lowNibble (s : State) : State :=
  let t : State := { s.push (.clockNibble ((playedByte s).extractLsb' 0 4)) with
    adpcm.nibbleSelector := false
    adpcm.playStartAddress := nextPlayAddress s.config.playAddrWrap s.adpcm.playStartAddress }
  if t.adpcm.playEndAddress.toNat < t.adpcm.playStartAddress then playStop t else t

/-- The high nibble (42_adpcm_dma.md R241). -/
def highNibble (s : State) : State :=
  { s.push (.clockNibble ((playedByte s).extractLsb' 4 4)) with adpcm.nibbleSelector := true }

/-- `nibbleTick()` (42_adpcm_dma.md R241). -/
def nibbleTick (s : State) : Result := pump (if s.adpcm.nibbleSelector then lowNibble s else highNibble s)

end Sys2Proof.Machine
end

