-- ==== Sys2Proof/Machine/Fade.lean ====
section
/-! DEFINITION. The fade controller of 43_fade.md: the fade-program register and the ticks of the four fade timers. -/

namespace Sys2Proof.Machine

/-- The two channels of the fade controller (10_state.md R45). -/
inductive Channel where
  | cd | ad
  deriving DecidableEq, Repr

/-- What a fade program does to one channel (43_fade.md R272). -/
inductive FadeAction where
  | unchanged
  | fadeIn (period : FadePeriod)
  | fadeOut (period : FadePeriod)
  deriving DecidableEq, Repr

/-- The fade-program table: the actions on the CD and the AD channel; `none` for a code not in it (43_fade.md R272). -/
def fadeProgram (p : BitVec 4) : Option (FadeAction × FadeAction) :=
  match p.toNat with
  | 0x0 => some (.fadeIn .us100, .fadeIn .us100)
  | 0x1 => some (.fadeIn .us100, .unchanged)
  | 0x8 => some (.fadeOut .us1500, .fadeIn .us100)
  | 0x9 => some (.fadeOut .us5000, .unchanged)
  | 0xA => some (.unchanged, .fadeOut .us5000)
  | 0xC => some (.fadeOut .us1500, .fadeIn .us100)
  | 0xD => some (.fadeOut .us1500, .unchanged)
  | 0xE => some (.unchanged, .fadeOut .us1500)
  | _ => none

/-- `fadeIn` and `fadeOut` of 43_fade.md R273 and R274 on one channel. -/
def fadeStart (a : FadeAction) (c : FadeChannel) : FadeChannel :=
  match a with
  | .unchanged => c
  | .fadeIn p => { volume := 0, fadeIn := .armed p, fadeOut := .off }
  | .fadeOut p => { volume := Config.fullVolume, fadeIn := .off, fadeOut := .armed p }

/-- The effect of a program that is written and differs, or the flag of an unknown one (43_fade.md R271, R275). -/
def selectProgram (p : BitVec 4) (s : State) : State :=
  match fadeProgram p with
  | some (cd, ad) => { s with fadeCd := fadeStart cd s.fadeCd, fadeAd := fadeStart ad s.fadeAd }
  | none => s.push (.unknownFadeProgram p)

/-- `fadeWrite(v)` (43_fade.md R271). -/
def fadeWrite (v : Byte) (s : State) : State :=
  (if v = s.getReg 0xF then s else selectProgram (fadeCode v) s).setReg 0xF v

/-- The state of a channel. -/
def State.channel (s : State) : Channel → FadeChannel
  | .cd => s.fadeCd
  | .ad => s.fadeAd

/-- The state with a channel replaced. -/
def State.setChannel (s : State) (ch : Channel) (c : FadeChannel) : State :=
  match ch with
  | .cd => { s with fadeCd := c }
  | .ad => { s with fadeAd := c }

/-- The call that pushes a volume to a channel's sink (43_fade.md R270). -/
def volumeEvent (ch : Channel) (v : Nat) : Event :=
  match ch with
  | .cd => .playerSetVolume v
  | .ad => .clockSetVolume v

/-- One fade-in tick on a channel (43_fade.md R276). -/
def rampUp (c : FadeChannel) : FadeChannel :=
  let v := min (c.volume + Config.fadeStep) Config.fullVolume
  { c with volume := v, fadeIn := if v = Config.fullVolume then .off else c.fadeIn }

/-- One fade-out tick on a channel (43_fade.md R277). -/
def rampDown (c : FadeChannel) : FadeChannel :=
  let v := c.volume - Config.fadeStep
  { c with volume := v, fadeOut := if v = 0 then .off else c.fadeOut }

/-- `fadeInTick(ch)` (43_fade.md R276). -/
def fadeInTick (ch : Channel) (s : State) : Result :=
  let c := rampUp (s.channel ch)
  pump ((s.setChannel ch c).push (volumeEvent ch c.volume))

/-- `fadeOutTick(ch)` (43_fade.md R277). -/
def fadeOutTick (ch : Channel) (s : State) : Result :=
  let c := rampDown (s.channel ch)
  pump ((s.setChannel ch c).push (volumeEvent ch c.volume))

end Sys2Proof.Machine
end

