-- ==== Sys2Proof/Machine/Reads.lean ====
section
/-! DEFINITION. The host reads of 44_host_registers.md. A read's value is recorded in the history before any call it makes (R317). -/

namespace Sys2Proof.Machine

/-- The record of a read's value (44_host_registers.md R317). -/
def recordRead (r : RegIndex) (v : Byte) (s : State) : State := s.push (.read r v)

/-- A read that changes nothing but the history. -/
def plainRead (r : RegIndex) (v : Byte) (s : State) : Host.Outcome State Fault Refusal := .next (recordRead r v s)

/-- A read that returns a drawn byte (44_host_registers.md R306). -/
def drawnRead (r : RegIndex) (s : State) : Host.Outcome State Fault Refusal :=
  .next ((recordRead r (drawnByte s) s).drew 1)

/-- RD 0x0: the bus lines (44_host_registers.md R303). -/
def execRd0x0 (s : State) : Host.Outcome State Fault Refusal := plainRead 0x0 (busLines s.bus) s

/-- RD 0x1: `dataReg` (44_host_registers.md R301). -/
def execRd0x1 (s : State) : Host.Outcome State Fault Refusal := plainRead 0x1 s.bus.dataReg s

/-- RD 0x2: `reg[0x2]` (44_host_registers.md R302). -/
def execRd0x2 (s : State) : Host.Outcome State Fault Refusal := plainRead 0x2 (s.getReg 0x2) s

/-- RD 0x3: the IRQ status with drawn bits 7, 1 and 0, and the lock of BRAM (44_host_registers.md R303). -/
def execRd0x3 (s : State) : Host.Outcome State Fault Refusal :=
  .next ({ recordRead 0x3 (irqByte s.bus.irqStatus (drawnByte s)) s with bramLocked := true }.drew 1)

/-- RD 0x4: `reg[0x4]` (44_host_registers.md R304). -/
def execRd0x4 (s : State) : Host.Outcome State Fault Refusal := plainRead 0x4 (s.getReg 0x4) s

/-- RD 0x5: a draw (44_host_registers.md R306). -/
def execRd0x5 (s : State) : Host.Outcome State Fault Refusal := drawnRead 0x5 s

/-- RD 0x6: a draw (44_host_registers.md R306). -/
def execRd0x6 (s : State) : Host.Outcome State Fault Refusal := drawnRead 0x6 s

/-- RD 0x7: bit 7 is 1 while BRAM is unlocked (44_host_registers.md R309). -/
def execRd0x7 (s : State) : Host.Outcome State Fault Refusal := plainRead 0x7 (bramByte s) s

/-- RD 0x8: `accessor()` (44_host_registers.md R311, 40_bus_phases.md R155). -/
def execRd0x8 (s : State) : Host.Outcome State Fault Refusal :=
  settle s (accessor (recordRead 0x8 s.bus.dataReg s))

/-- RD 0x9: `reg[0x9]` (44_host_registers.md R308). -/
def execRd0x9 (s : State) : Host.Outcome State Fault Refusal := plainRead 0x9 (s.getReg 0x9) s

/-- RD 0xA: `portRead()` (44_host_registers.md R310, 42_adpcm_dma.md R236). -/
def execRd0xA (s : State) : Host.Outcome State Fault Refusal :=
  .next (portRead (recordRead 0xA (portValue s) s))

/-- RD 0xB: `reg[0xB]` (44_host_registers.md R312). -/
def execRd0xB (s : State) : Host.Outcome State Fault Refusal := plainRead 0xB (s.getReg 0xB) s

/-- RD 0xC: the ADPCM status (44_host_registers.md R313). -/
def execRd0xC (s : State) : Host.Outcome State Fault Refusal := plainRead 0xC (adpcmStatus s.adpcm) s

/-- RD 0xD: `reg[0xD]` (44_host_registers.md R314). -/
def execRd0xD (s : State) : Host.Outcome State Fault Refusal := plainRead 0xD (s.getReg 0xD) s

/-- RD 0xE: `reg[0xE]` (44_host_registers.md R314). -/
def execRd0xE (s : State) : Host.Outcome State Fault Refusal := plainRead 0xE (s.getReg 0xE) s

/-- RD 0xF: `reg[0xF]` (44_host_registers.md R314). -/
def execRd0xF (s : State) : Host.Outcome State Fault Refusal := plainRead 0xF (s.getReg 0xF) s

end Sys2Proof.Machine
end

