-- ==== Sys2Proof/Machine/Writes.lean ====
section
/-! DEFINITION. The host writes of 44_host_registers.md: each has its register's effect, then the pump (R316). -/

namespace Sys2Proof.Machine

/-- A host write: the effect, then the pump (44_host_registers.md R316). -/
def hostWrite (effect : Result) (s : State) : Host.Outcome State Fault Refusal := settle s (effect.bind pump)

/-- `write0(v)`: the SEL pulse (44_host_registers.md R300). -/
def write0 (v : Byte) (s : State) : Result := do
  let t ← pump { s.setReg 0x0 v with bus.sel := true }
  return { t with
    bus.sel := false, adpcm.dmaTimerArmed := false
    bus.irqStatus := t.bus.irqStatus &&& ~~~irqTransfer }

/-- `write1(v)`: the data register (44_host_registers.md R301). -/
def write1 (v : Byte) (s : State) : State := { s.setReg 0x1 v with bus.dataReg := v }

/-- `write2(v)`: the enables and the ACK line (44_host_registers.md R302). -/
def write2 (v : Byte) (s : State) : State := { s.setReg 0x2 v with bus.ack := v[7] }

/-- `write4(v)`: the RST line (44_host_registers.md R304). -/
def write4 (v : Byte) (s : State) : State := { s.setReg 0x4 v with bus.rst := v[1] }

/-- `write7(v)`: the BRAM unlock (44_host_registers.md R305). -/
def write7 (v : Byte) (s : State) : State :=
  let t := s.setReg 0x7 v
  if v[7] then { t with bramLocked := false } else t

/-- WR 0x0 (44_host_registers.md R300). -/
def execWr0x0 (v : Byte) (s : State) : Host.Outcome State Fault Refusal := hostWrite (write0 v s) s

/-- WR 0x1 (44_host_registers.md R301). -/
def execWr0x1 (v : Byte) (s : State) : Host.Outcome State Fault Refusal := hostWrite (.ok (write1 v s)) s

/-- WR 0x2 (44_host_registers.md R302). -/
def execWr0x2 (v : Byte) (s : State) : Host.Outcome State Fault Refusal := hostWrite (.ok (write2 v s)) s

/-- WR 0x3: the byte is discarded (44_host_registers.md R315). -/
def execWr0x3 (_v : Byte) (s : State) : Host.Outcome State Fault Refusal := hostWrite (.ok s) s

/-- WR 0x4 (44_host_registers.md R304). -/
def execWr0x4 (v : Byte) (s : State) : Host.Outcome State Fault Refusal := hostWrite (.ok (write4 v s)) s

/-- WR 0x5: stored only (44_host_registers.md R306). -/
def execWr0x5 (v : Byte) (s : State) : Host.Outcome State Fault Refusal := hostWrite (.ok (s.setReg 0x5 v)) s

/-- WR 0x6: stored only (44_host_registers.md R306). -/
def execWr0x6 (v : Byte) (s : State) : Host.Outcome State Fault Refusal := hostWrite (.ok (s.setReg 0x6 v)) s

/-- WR 0x7 (44_host_registers.md R305). -/
def execWr0x7 (v : Byte) (s : State) : Host.Outcome State Fault Refusal := hostWrite (.ok (write7 v s)) s

/-- WR 0x8: the low byte of the address pair (44_host_registers.md R307). -/
def execWr0x8 (v : Byte) (s : State) : Host.Outcome State Fault Refusal := hostWrite (.ok (s.setReg 0x8 v)) s

/-- WR 0x9: the high byte of the address pair (44_host_registers.md R308). -/
def execWr0x9 (v : Byte) (s : State) : Host.Outcome State Fault Refusal := hostWrite (.ok (s.setReg 0x9 v)) s

/-- WR 0xA: the RAM data port (44_host_registers.md R310, 42_adpcm_dma.md R234). -/
def execWr0xA (v : Byte) (s : State) : Host.Outcome State Fault Refusal := hostWrite (.ok (portWrite v s)) s

/-- WR 0xB: the DMA control (44_host_registers.md R312, 42_adpcm_dma.md R231). -/
def execWr0xB (v : Byte) (s : State) : Host.Outcome State Fault Refusal := hostWrite (.ok (dmaControlWrite v s)) s

/-- WR 0xC: the byte is discarded (44_host_registers.md R315). -/
def execWr0xC (_v : Byte) (s : State) : Host.Outcome State Fault Refusal := hostWrite (.ok s) s

/-- WR 0xD: the ADPCM control (44_host_registers.md R314, 42_adpcm_dma.md R237). -/
def execWr0xD (v : Byte) (s : State) : Host.Outcome State Fault Refusal := hostWrite (.ok (adpcmControlWrite v s)) s

/-- WR 0xE: the playback rate (44_host_registers.md R314, 42_adpcm_dma.md R243). -/
def execWr0xE (v : Byte) (s : State) : Host.Outcome State Fault Refusal := hostWrite (.ok (rateWrite v s)) s

/-- WR 0xF: the fade program (44_host_registers.md R314, 43_fade.md R271). -/
def execWr0xF (v : Byte) (s : State) : Host.Outcome State Fault Refusal := hostWrite (.ok (fadeWrite v s)) s

/-! ## The FADE rows: WR 0xF with a program of the table (43_fade.md R272) -/

/-- FADE 0x0: both channels fade in, 100 µs. -/
def execFade0x0 (high : BitVec 4) (s : State) : Host.Outcome State Fault Refusal :=
  hostWrite (.ok (fadeWrite (fadeByte high 0x0) s)) s

/-- FADE 0x1: CD-DA fade in, 100 µs. -/
def execFade0x1 (high : BitVec 4) (s : State) : Host.Outcome State Fault Refusal :=
  hostWrite (.ok (fadeWrite (fadeByte high 0x1) s)) s

/-- FADE 0x8: CD-DA fade out, 1500 µs, and ADPCM fade in, 100 µs. -/
def execFade0x8 (high : BitVec 4) (s : State) : Host.Outcome State Fault Refusal :=
  hostWrite (.ok (fadeWrite (fadeByte high 0x8) s)) s

/-- FADE 0x9: CD-DA fade out, 5000 µs. -/
def execFade0x9 (high : BitVec 4) (s : State) : Host.Outcome State Fault Refusal :=
  hostWrite (.ok (fadeWrite (fadeByte high 0x9) s)) s

/-- FADE 0xA: ADPCM fade out, 5000 µs. -/
def execFade0xA (high : BitVec 4) (s : State) : Host.Outcome State Fault Refusal :=
  hostWrite (.ok (fadeWrite (fadeByte high 0xA) s)) s

/-- FADE 0xC: the same as 0x8. -/
def execFade0xC (high : BitVec 4) (s : State) : Host.Outcome State Fault Refusal :=
  hostWrite (.ok (fadeWrite (fadeByte high 0xC) s)) s

/-- FADE 0xD: CD-DA fade out, 1500 µs. -/
def execFade0xD (high : BitVec 4) (s : State) : Host.Outcome State Fault Refusal :=
  hostWrite (.ok (fadeWrite (fadeByte high 0xD) s)) s

/-- FADE 0xE: ADPCM fade out, 1500 µs. -/
def execFade0xE (high : BitVec 4) (s : State) : Host.Outcome State Fault Refusal :=
  hostWrite (.ok (fadeWrite (fadeByte high 0xE) s)) s

end Sys2Proof.Machine
end

