-- ==== Sys2Proof/Machine/Events.lean ====
section
/-! DEFINITION. The steps of the agents other than the host (30_encoding.md R102), each refused while its agent is not enabled
(R103), and the reserved host-operation words (R101). -/

namespace Sys2Proof.Machine

/-- The timer is armed. -/
def FadeTimer.isArmed : FadeTimer → Bool
  | .off => false
  | .armed _ => true

/-- `active(ch)`: a timer of the channel is running (10_state.md R45). -/
def FadeChannel.active (c : FadeChannel) : Bool := c.fadeIn.isArmed || c.fadeOut.isArmed

/-- Whether an agent has a step (10_state.md R20); the fault that stops them all is `step`'s check. -/
def agentEnabled (s : State) : Agent → Bool
  | .host => decide (s.hpc < s.program.length)
  | .sectorTimer => s.audio.sectorTimerArmed
  | .dmaTimer => s.adpcm.dmaTimerArmed
  | .nibbleClock => s.adpcm.playing
  | .fadeCdIn => s.fadeCd.fadeIn.isArmed
  | .fadeCdOut => s.fadeCd.fadeOut.isArmed
  | .fadeAdIn => s.fadeAd.fadeIn.isArmed
  | .fadeAdOut => s.fadeAd.fadeOut.isArmed
  | .audioEndPoll => true

/-- The step of an agent: what its rule computes, or the outcome "not enabled" (30_encoding.md R103). -/
def agentStep (a : Agent) (r : Result) (s : State) : Host.Outcome State Fault Refusal :=
  if agentEnabled s a then settle s r else .refused (.notEnabled a)

/-! ## The sector timer and the audio-end poll (41_scsi_commands.md R200, R201) -/

/-- The bytes a sector tick delivers: the sector, or 2048 drawn bytes on a failure (41_scsi_commands.md R200). -/
def sectorBytes (s : State) : List Byte :=
  match readSector s.config.disc s.audio.currentFrame with
  | some bytes => bytes
  | none => drawnBytes s.draws Config.sectorBytes

/-- The query `readSector(currentFrame)` with its answer recorded (20_memory.md R73, R79). -/
def askSector (s : State) : State :=
  match readSector s.config.disc s.audio.currentFrame with
  | some bytes => s.push (.readSector s.audio.currentFrame true bytes)
  | none =>
    (s.push (.readSector s.audio.currentFrame false (drawnBytes s.draws Config.sectorBytes))).drew Config.sectorBytes

/-- The load of a sector into the data buffer (41_scsi_commands.md R200). -/
def loadSector (s : State) : State :=
  let t : State := { askSector s with
    bus.dataBuffer := overwrite s.bus.dataBuffer (sectorBytes s)
    bus.dataIndex := 0, bus.dataSize := Config.sectorBytes
    audio.currentFrame := toFrame (s.audio.currentFrame.toNat + 1)
    bus.io := true, bus.cd := false
    bus.irqStatus := s.bus.irqStatus ||| irqReady }
  if t.audio.currentFrame = t.audio.endFrame then { t with bus.dataTransferred := true, audio.sectorTimerArmed := false }
  else { t with bus.dataTransferred := false }

/-- `sectorTick()` (41_scsi_commands.md R200). -/
def sectorTick (s : State) : Result :=
  pump (if s.bus.dataIndex = s.bus.dataSize then loadSector s else s)

/-- What an end of playback does in each play mode (41_scsi_commands.md R201). -/
def audioEnded (s : State) : Result :=
  match s.audio.playMode with
  | .repeats => startPlayer s.audio.currentFrame s.audio.endFrame s
  | .irqAtEnd => .ok { s with audio.endOfTrackArmed := false, bus.irqStatus := s.bus.irqStatus ||| irqDone }
  | .stopAtEnd => .ok { s with audio.endOfTrackArmed := false }
  | .noEnd => .ok { s with audio.endOfTrackArmed := false }

/-- What a poll does with the player's answer: an end acts only while the poll is armed (41_scsi_commands.md R201, R202). -/
def pollAnswered (ended : Bool) (s : State) : Result :=
  if ended && s.audio.endOfTrackArmed then audioEnded s else .ok s

/-- `audioPoll()`, with the player's answer (41_scsi_commands.md R201, R202). -/
def audioPoll (ended : Bool) (s : State) : Result := do
  let t ← pollAnswered ended (s.push (.playerHasEnded ended))
  pump t

/-! ## The meanings -/

/-- EV TICK_SECTOR (41_scsi_commands.md R200). -/
def execEvTickSector (s : State) : Host.Outcome State Fault Refusal := agentStep .sectorTimer (sectorTick s) s

/-- EV TICK_DMA (42_adpcm_dma.md R232). -/
def execEvTickDma (s : State) : Host.Outcome State Fault Refusal := agentStep .dmaTimer (dmaTick s) s

/-- EV TICK_NIBBLE (42_adpcm_dma.md R241). -/
def execEvTickNibble (s : State) : Host.Outcome State Fault Refusal := agentStep .nibbleClock (nibbleTick s) s

/-- EV FADE_CD_IN (43_fade.md R276). -/
def execEvFadeCdIn (s : State) : Host.Outcome State Fault Refusal := agentStep .fadeCdIn (fadeInTick .cd s) s

/-- EV FADE_CD_OUT (43_fade.md R277). -/
def execEvFadeCdOut (s : State) : Host.Outcome State Fault Refusal := agentStep .fadeCdOut (fadeOutTick .cd s) s

/-- EV FADE_AD_IN (43_fade.md R276). -/
def execEvFadeAdIn (s : State) : Host.Outcome State Fault Refusal := agentStep .fadeAdIn (fadeInTick .ad s) s

/-- EV FADE_AD_OUT (43_fade.md R277). -/
def execEvFadeAdOut (s : State) : Host.Outcome State Fault Refusal := agentStep .fadeAdOut (fadeOutTick .ad s) s

/-- EV POLL_AUDIO (41_scsi_commands.md R201). -/
def execEvPollAudio (answer : Bool) (s : State) : Host.Outcome State Fault Refusal :=
  agentStep .audioEndPoll (audioPoll answer s) s

/-- A word of the reserved kind: performing it is the fault IllegalHostOp, which is taken (30_encoding.md R101, 60_exceptions.md
R352). -/
def execReserved (_low : BitVec 12) (s : State) : Host.Outcome State Fault Refusal := settle s (.error .illegalHostOp)

end Sys2Proof.Machine
end

