-- ==== Sys2Proof/Machine/Schedule.lean ====
section
/-! DEFINITION. How the directed schedule drives the machine (30_encoding.md R103): the fetch of the next host operation, the end of a
step, and what it takes to place an instruction where the next step runs it. -/

namespace Sys2Proof.Machine

/-- The next operation of the host program; `none` when it is over (10_state.md R21). -/
def fetchWord (s : State) : Option HostWord := s.program[s.hpc]?

/-- The end of a step that raised no fault: `hpc` moves on and the `irq` level is recorded (10_state.md R21, 20_memory.md R79). That
`hpc` moves on after an event too is the model's choice (log 1). -/
def finishState (s : State) : State := { s with hpc := s.hpc + 1 }.push (.irq (irqLine s))

/-- The outcome of a whole step, from the outcome of its instruction: where the instruction took a fault, "Its outcome is the fault"
(60_exceptions.md R352). -/
def finishStep (o : Host.Outcome State Fault Refusal) : Host.Outcome State Fault Refusal :=
  match o with
  | .next s =>
    match s.fault with
    | some f => .fault f
    | none => .next (finishState s)
  | .fault f => .fault f
  | .refused r => .refused r

/-- What performing a word that no row of the table has comes to: the fault IllegalHostOp is taken (30_encoding.md R101). -/
def illegalWord (s : State) : Host.Outcome State Fault Refusal := settle s (.error .illegalHostOp)

/-! ## Placing an instruction -/

/-- A program with the word w at index n. -/
def placeAt : Nat → HostWord → List HostWord → List HostWord
  | 0, w, [] => [w]
  | 0, w, _ :: rest => w :: rest
  | n + 1, w, [] => 0 :: placeAt n w []
  | n + 1, w, v :: rest => v :: placeAt n w rest

/-- The state whose next host operation is w, and which no fault stops. -/
def placeWord (w : HostWord) (s : State) : State :=
  { s with program := placeAt s.hpc w s.program, fault := none }

/-- The state in which the agent of an event has a step (10_state.md R20); a timer that is armed already is left as it is. -/
def enableAgent (i : Instr) (s : State) : State :=
  match i with
  | .evTickSector => { s with audio.sectorTimerArmed := true }
  | .evTickDma => { s with adpcm.dmaTimerArmed := true }
  | .evTickNibble => { s with adpcm.playing := true }
  | .evFadeCdIn => if s.fadeCd.fadeIn.isArmed then s else { s with fadeCd.fadeIn := .armed .us100 }
  | .evFadeCdOut => if s.fadeCd.fadeOut.isArmed then s else { s with fadeCd.fadeOut := .armed .us1500 }
  | .evFadeAdIn => if s.fadeAd.fadeIn.isArmed then s else { s with fadeAd.fadeIn := .armed .us100 }
  | .evFadeAdOut => if s.fadeAd.fadeOut.isArmed then s else { s with fadeAd.fadeOut := .armed .us1500 }
  | _ => s

/-- The state in which a host operation is placed, its agent enabled. -/
def placeHostOp (w : HostWord) (s : State) : State :=
  match decodeHostOp w with
  | .ok i => placeWord w (enableAgent i s)
  | .error _ => placeWord w s

/-- The state in which a complete command waits for its last ACK to fall: Command phase, the whole block in `commandBuffer`, ACK still
high, and a host program whose next operation lowers it, so that the next step dispatches the command (40_bus_phases.md R149). -/
def placeCommand (c : List Byte) (s : State) : State :=
  let enables := s.getReg 0x2 &&& 0x7F
  placeWord (hostWord 1 2 enables) { s.setReg 0x2 (enables ||| 0x80) with
    bus.bsy := true, bus.sel := false, bus.cd := true, bus.io := false, bus.msg := false
    bus.req := false, bus.ack := true, bus.atn := false
    bus.selected := true, bus.lastRst := s.bus.rst
    bus.commandBuffer := c }

/-- The state whose next step runs an encoded instruction. -/
def placeCode (code : Code) (s : State) : State :=
  match code with
  | .hostOp w => placeHostOp w s
  | .cdb c => placeCommand c s
  | .cdbSub c => placeCommand c s
  | .cdbAddr c => placeCommand c s

end Sys2Proof.Machine
end

