-- ==== Sys2Proof/Machine/Dispatch.lean ====
section
/-! DEFINITION. The dispatch of every instruction to its meaning, one arm per row of spec/opcode_table.json. -/

namespace Sys2Proof.Machine

def exec (i : Instr) (s : State) : Host.Outcome State Fault Refusal :=
  match i with
  | .rd0x0 => Sys2Proof.Machine.execRd0x0 s
  | .rd0x1 => Sys2Proof.Machine.execRd0x1 s
  | .rd0x2 => Sys2Proof.Machine.execRd0x2 s
  | .rd0x3 => Sys2Proof.Machine.execRd0x3 s
  | .rd0x4 => Sys2Proof.Machine.execRd0x4 s
  | .rd0x5 => Sys2Proof.Machine.execRd0x5 s
  | .rd0x6 => Sys2Proof.Machine.execRd0x6 s
  | .rd0x7 => Sys2Proof.Machine.execRd0x7 s
  | .rd0x8 => Sys2Proof.Machine.execRd0x8 s
  | .rd0x9 => Sys2Proof.Machine.execRd0x9 s
  | .rd0xA => Sys2Proof.Machine.execRd0xA s
  | .rd0xB => Sys2Proof.Machine.execRd0xB s
  | .rd0xC => Sys2Proof.Machine.execRd0xC s
  | .rd0xD => Sys2Proof.Machine.execRd0xD s
  | .rd0xE => Sys2Proof.Machine.execRd0xE s
  | .rd0xF => Sys2Proof.Machine.execRd0xF s
  | .wr0x0 data => Sys2Proof.Machine.execWr0x0 data s
  | .wr0x1 data => Sys2Proof.Machine.execWr0x1 data s
  | .wr0x2 data => Sys2Proof.Machine.execWr0x2 data s
  | .wr0x3 data => Sys2Proof.Machine.execWr0x3 data s
  | .wr0x4 data => Sys2Proof.Machine.execWr0x4 data s
  | .wr0x5 data => Sys2Proof.Machine.execWr0x5 data s
  | .wr0x6 data => Sys2Proof.Machine.execWr0x6 data s
  | .wr0x7 data => Sys2Proof.Machine.execWr0x7 data s
  | .wr0x8 data => Sys2Proof.Machine.execWr0x8 data s
  | .wr0x9 data => Sys2Proof.Machine.execWr0x9 data s
  | .wr0xA data => Sys2Proof.Machine.execWr0xA data s
  | .wr0xB data => Sys2Proof.Machine.execWr0xB data s
  | .wr0xC data => Sys2Proof.Machine.execWr0xC data s
  | .wr0xD data => Sys2Proof.Machine.execWr0xD data s
  | .wr0xE data => Sys2Proof.Machine.execWr0xE data s
  | .wr0xF data => Sys2Proof.Machine.execWr0xF data s
  | .evTickSector => Sys2Proof.Machine.execEvTickSector s
  | .evTickDma => Sys2Proof.Machine.execEvTickDma s
  | .evTickNibble => Sys2Proof.Machine.execEvTickNibble s
  | .evFadeCdIn => Sys2Proof.Machine.execEvFadeCdIn s
  | .evFadeCdOut => Sys2Proof.Machine.execEvFadeCdOut s
  | .evFadeAdIn => Sys2Proof.Machine.execEvFadeAdIn s
  | .evFadeAdOut => Sys2Proof.Machine.execEvFadeAdOut s
  | .evPollAudio answer => Sys2Proof.Machine.execEvPollAudio answer s
  | .reserved low => Sys2Proof.Machine.execReserved low s
  | .testUnitReady => Sys2Proof.Machine.execTestUnitReady s
  | .read6 frame count => Sys2Proof.Machine.execRead6 frame count s
  | .setAudioStart mode addr => Sys2Proof.Machine.execSetAudioStart mode addr s
  | .setAudioEnd mode addr => Sys2Proof.Machine.execSetAudioEnd mode addr s
  | .pause => Sys2Proof.Machine.execPause s
  | .getSubchannelQ => Sys2Proof.Machine.execGetSubchannelQ s
  | .getDirInfo subFunction track => Sys2Proof.Machine.execGetDirInfo subFunction track s
  | .dirInfoTracks => Sys2Proof.Machine.execDirInfoTracks s
  | .dirInfoDiscSize => Sys2Proof.Machine.execDirInfoDiscSize s
  | .dirInfoTrackStart track => Sys2Proof.Machine.execDirInfoTrackStart track s
  | .fade0x0 high => Sys2Proof.Machine.execFade0x0 high s
  | .fade0x1 high => Sys2Proof.Machine.execFade0x1 high s
  | .fade0x8 high => Sys2Proof.Machine.execFade0x8 high s
  | .fade0x9 high => Sys2Proof.Machine.execFade0x9 high s
  | .fade0xA high => Sys2Proof.Machine.execFade0xA high s
  | .fade0xC high => Sys2Proof.Machine.execFade0xC high s
  | .fade0xD high => Sys2Proof.Machine.execFade0xD high s
  | .fade0xE high => Sys2Proof.Machine.execFade0xE high s
  | .audioAddrLba cmd mode frame => Sys2Proof.Machine.execAudioAddrLba cmd mode frame s
  | .audioAddrMsf cmd mode minute second frame => Sys2Proof.Machine.execAudioAddrMsf cmd mode minute second frame s
  | .audioAddrTrack cmd mode number => Sys2Proof.Machine.execAudioAddrTrack cmd mode number s
  | .audioAddrReserved cmd mode => Sys2Proof.Machine.execAudioAddrReserved cmd mode s

end Sys2Proof.Machine
end

