-- ==== Sys2Proof/Machine/Step.lean ====
section
/-! DEFINITION. One step of the machine: the next element of the directed schedule, performed by its agent (30_encoding.md R103). -/

namespace Sys2Proof.Machine

/-- One step: the next state, the fault a rule raised, or "not enabled" (00_scope.md R10). A recorded fault is sticky: no agent is
enabled any more (60_exceptions.md R352). Otherwise the next element of the schedule is fetched and decoded; an illegal word is the fault
IllegalHostOp (30_encoding.md R101), any other runs. -/
def step (s : State) : Host.Outcome State Fault Refusal :=
  match s.fault with
  | some f => .refused (.faulted f)
  | none =>
    match fetchWord s with
    | none => .refused .programEnded
    | some w =>
      match decodeHostOp w with
      | .error _ => finishStep (illegalWord s)
      | .ok i => finishStep (exec i s)

/-- The state a step leaves: its next state; after a fault, "the state before the step with `fault <- some(reason)`" (60_exceptions.md
R352); and the state itself where no agent stepped. -/
def stateAfter (s : State) : State :=
  match step s with
  | .next t => t
  | .fault f => takeFault s f
  | .refused _ => s

/-- s with the instruction of a table row's bits stored where the next step runs it (log 8). -/
def State.withFetchWord (s : State) (nbits w : Nat) : State := placeCode (codeOfTableWord nbits w) s

end Sys2Proof.Machine
end

