-- ==== Sys2Proof/Safety.lean ====
section
/-! DEFINITION. What counts as a safe state: a bus at rest between steps, and the invariants the rules of spec/ give for the bus, the
audio transport, the ADPCM engine and the fade channels. -/

namespace Sys2Proof.Machine

/-- The pump has reached its fixed point: one pass changes nothing (40_bus_phases.md R140, R154). -/
def AtRest (s : State) : Prop := pass s = .ok s

/-- The bus between two steps: at rest, no SEL pulse and no ATN (10_state.md R24, 44_host_registers.md R300); busy exactly while the
target is selected, REQ only while busy (40_bus_phases.md R158); neither DataOut nor MessageOut (R146, R153); never REQ and ACK
together (R158); ACK and RST as registers 0x2 and 0x4 drive them (44_host_registers.md R302, R304); the buffers inside their bounds
(10_state.md R27, R28); only IRQ_READY and IRQ_DONE ever set (42_adpcm_dma.md R242, 10_state.md R30). -/
structure BusInv (s : State) : Prop where
  atRest        : AtRest s
  noSel         : s.bus.sel = false
  noAtn         : s.bus.atn = false
  rstSeen       : s.bus.lastRst = s.bus.rst
  selectedBusy  : s.bus.selected = s.bus.bsy
  reqBusy       : s.bus.req = true → s.bus.bsy = true
  noDataOut     : s.bus.bsy = true → s.bus.cd = true ∨ s.bus.io = true
  noMessageOut  : s.bus.bsy = true → s.bus.cd = true → s.bus.msg = true → s.bus.io = true
  noReqAck      : ¬ (s.bus.req = true ∧ s.bus.ack = true)
  ackDriven     : s.bus.ack = (s.getReg 0x2)[7]
  rstDriven     : s.bus.rst = (s.getReg 0x4)[1]
  commandBytes  : s.bus.commandBuffer.length ≤ Config.commandCapacity
  indexInside   : s.bus.dataIndex ≤ s.bus.dataSize
  sizeWritten   : s.bus.dataSize ≤ s.bus.dataBuffer.length
  sizeBound     : s.bus.dataSize ≤ Config.sectorBytes
  bufferBound   : s.bus.dataBuffer.length ≤ Config.dataCapacity
  irqSources    : s.bus.irqStatus &&& ~~~(irqReady ||| irqDone) = 0

/-- The ADPCM engine: RAM in its canonical form; the holdoffs in their ranges (10_state.md R38); the play address inside the RAM while
it plays, and always under PLAY_ADDR_WRAP (42_adpcm_dma.md R241); the divider as register 0xE gives it (R243); playing only while
bit 6 of register 0xD is set (R237). -/
structure AdpcmInv (s : State) : Prop where
  ramWf        : memoryWf s.adpcm.ram = true
  readHoldoff  : s.adpcm.readHoldoff ≤ 2
  writeHoldoff : s.adpcm.writeHoldoff ≤ 1
  playAddress  : s.adpcm.playStartAddress ≤ Config.ramBytes
  playInside   : s.config.playAddrWrap = true ∨ s.adpcm.playing = true → s.adpcm.playStartAddress < Config.ramBytes
  divider      : s.adpcm.clockDivider = 16 - ((s.getReg 0xE).extractLsb' 0 4).toNat
  playBit      : s.adpcm.playing = true → (s.getReg 0xD)[6] = true

/-- A fade channel: the volume 0 to 100 in steps of 10 (43_fade.md R278), at most one timer armed (R280), and an armed timer not yet at
its bound (R276, R277). -/
structure FadeInv (c : FadeChannel) : Prop where
  bound    : c.volume ≤ 100
  steps    : c.volume % 10 = 0
  oneTimer : c.fadeIn.isArmed = true → c.fadeOut.isArmed = false
  rising   : c.fadeIn.isArmed = true → c.volume < 100
  falling  : c.fadeOut.isArmed = true → 0 < c.volume

/-- Both fade channels. -/
structure FadesInv (s : State) : Prop where
  cd : FadeInv s.fadeCd
  ad : FadeInv s.fadeAd

/-- A START_MODE table whose armed rows and entries have an end action, as the default table's do (41_scsi_commands.md R187, R202). -/
def StartModeTable.armsWithAction (t : StartModeTable) : Prop :=
  (t.row0.armed = true → t.row0.mode ≠ .noEnd) ∧ (t.row1.armed = true → t.row1.mode ≠ .noEnd) ∧
  (t.row2.armed = true → t.row2.mode ≠ .noEnd) ∧ (t.row3.armed = true → t.row3.mode ≠ .noEnd) ∧
  ∀ e ∈ t.given, e.answer.armed = true → e.answer.mode ≠ .noEnd

/-- The audio transport: `lastFrame` is the end of the disc (10_state.md R31), only a mounted disc is read or played (60_exceptions.md
R353), and an armed end-of-track poll has an end action (41_scsi_commands.md R202). -/
structure AudioInv (s : State) : Prop where
  lastFrame : s.audio.lastFrame = endOfDisc s.config.disc
  reading   : s.audio.sectorTimerArmed = true → s.config.disc ≠ none
  playing   : s.audio.playbackStatus ≠ .off → s.config.disc ≠ none
  armed     : s.audio.endOfTrackArmed = true → s.audio.playMode ≠ .noEnd

/-- The tracks are in order and none overlaps the next (20_memory.md R74). -/
def tracksOrdered : List Track → Bool
  | [] => true
  | t :: rest =>
    (match rest with
     | [] => true
     | u :: _ => decide (trackEndNat t ≤ u.start.toNat)) && tracksOrdered rest

/-- A disc image as 20_memory.md R74 describes one: at least one track, in order and apart, its end a u32, and 2048 bytes a sector. -/
def Disc.wf (d : Disc) : Bool :=
  decide (d.tracks ≠ []) && tracksOrdered d.tracks && decide (discEnd d < 2 ^ 32) &&
    d.sectors.all fun x => decide (x.bytes.length = Config.sectorBytes)

/-! ## Terms the claims use -/

/-- The state after a list of instructions, one after another; `none` when one of them gives no next state. -/
def runAll : List Instr → State → Option State
  | [], s => some s
  | i :: rest, s =>
    match exec i s with
    | .next t => runAll rest t
    | .fault _ => none
    | .refused _ => none

/-- The instruction is the audio command `cmd` with this mode and this address, under either of its rows: the command's own, or that of
the address type (30_encoding.md R109). -/
def IsAudioCommand (cmd : AudioCommand) (mode : BitVec 2) (addr : AudioAddr) (i : Instr) : Prop :=
  (cmd = .start ∧ i = .setAudioStart mode addr) ∨
  (cmd = .finish ∧ i = .setAudioEnd mode addr) ∨
  (∃ frame, addr = .lba frame ∧ i = .audioAddrLba cmd mode frame) ∨
  (∃ minute second frame, addr = .msf minute second frame ∧ i = .audioAddrMsf cmd mode minute second frame) ∨
  (∃ number, addr = .track number ∧ i = .audioAddrTrack cmd mode number) ∨
  (addr = .reserved ∧ i = .audioAddrReserved cmd mode)

/-- START_MODE, for mode bits and a start frame on a disc, gives an end frame, an end action and an arming, with these Sector Source
queries: by the first entry for the pair, or else by the row of the mode bits (41_scsi_commands.md R187; log 10), a track's end past 32
bits being a free value (log 12). -/
def StartModeGives (table : StartModeTable) (d : Disc) (lastFrame : Frame) (bits : BitVec 2) (f : Frame) (x : StartAnswer)
    (queries : List Event) : Prop :=
  let row := startRow table bits
  (queries = [] ∧ ∃ before after, table.given = before ++ ⟨bits, f, x⟩ :: after ∧
    ∀ e ∈ before, e.bits = bits → e.start ≠ f) ∨
  ((∀ e ∈ table.given, e.bits = bits → e.start ≠ f) ∧ x.mode = row.mode ∧ x.armed = row.armed ∧
    ((row.extent = .wholeDisc ∧ queries = [] ∧ x.endFrame = lastFrame) ∨
     (row.extent = .thisTrack ∧ ∃ k t, trackOf d f = some (k, t) ∧ queries = [.trackOf f k, .tableOfContents d.tracks] ∧
       let n := t.start.toNat + t.frames.toNat
       (n < 2 ^ 32 → x.endFrame.toNat = n) ∧ (2 ^ 32 ≤ n → x.endFrame = Config.frameOverflow n))))

/-- The player, asked for its position in s, answers f and leaves u: the schedule's next answer (30_encoding.md R103), or, when the
schedule gives none, a free value (20_memory.md R84). -/
def PlayerAnswers (s : State) (f : Frame) (u : State) : Prop :=
  (∃ rest, s.answers = f :: rest ∧ u = { s with answers := rest, hist := s.hist ++ [.playerCurrentFrame f] }) ∨
  (s.answers = [] ∧ f = Config.freeFrame s.draws ∧
    u = { s with draws := s.draws + 1, hist := s.hist ++ [.playerCurrentFrame f] })

/-- The register an instruction writes its byte to (44_host_registers.md R316); registers 0x3 and 0xC keep no written byte (R315). -/
def storedRegister : Instr → Option RegIndex
  | .wr0x0 _ => some 0x0
  | .wr0x1 _ => some 0x1
  | .wr0x2 _ => some 0x2
  | .wr0x4 _ => some 0x4
  | .wr0x5 _ => some 0x5
  | .wr0x6 _ => some 0x6
  | .wr0x7 _ => some 0x7
  | .wr0x8 _ => some 0x8
  | .wr0x9 _ => some 0x9
  | .wr0xA _ => some 0xA
  | .wr0xB _ => some 0xB
  | .wr0xD _ => some 0xD
  | .wr0xE _ => some 0xE
  | .wr0xF _ => some 0xF
  | .fade0x0 _ | .fade0x1 _ | .fade0x8 _ | .fade0x9 _ | .fade0xA _ | .fade0xC _ | .fade0xD _ | .fade0xE _ => some 0xF
  | _ => none

/-- The instruction changes fade state: a write of register 0xF or a fade tick (43_fade.md). -/
def touchesFades : Instr → Bool
  | .wr0xF _ | .fade0x0 _ | .fade0x1 _ | .fade0x8 _ | .fade0x9 _ | .fade0xA _ | .fade0xC _ | .fade0xD _ | .fade0xE _ => true
  | .evFadeCdIn | .evFadeCdOut | .evFadeAdIn | .evFadeAdOut => true
  | _ => false

end Sys2Proof.Machine
end

