-- ==== Sys2Proof/Certificates/Slice0/Obligations.lean ====
section
/-! DEFINITION. The statements for the provers. "R<n>" is a numbered rule of spec/; "log <n>" is notes/assumptions/<n>.md. A statement
about an instruction gives its whole next state as an update of the state before, so that every field the update does not name, every
register and every byte of ADPCM RAM among them, is unchanged. Where a rule raises, `exec` answers the state R352 gives, the state
before with the fault recorded, and `step` answers the fault itself (log 2). -/

open Sys2Proof Sys2Proof.Machine

/-! ## Encodings -/

/-- Decoding what the encoder writes gives the instruction back, for every well-formed instruction (R100 to R109, R114, R272). -/
def Obligations.EncodeThenDecode : Prop :=
  ∀ i : Instr, i.wf = true → decode (encode i) = .ok i

/-- A host-operation word that decodes is the word of its instruction: no bit of a word is dropped (R100, R101). -/
def Obligations.HostWordDecodeThenEncode : Prop :=
  ∀ (w : HostWord) (i : Instr), decodeHostOp w = .ok i → i.wf = true ∧ encode i = .hostOp w

/-- The layouts of READ(6) (R107) and of the ten-byte commands (R108), with every ignored bit and byte free. -/
def Obligations.CommandBlockLayouts : Prop :=
  ∀ c1 c2 c3 c4 c5 c6 c7 c8 c9 : Byte,
    decodeCommand [0x08, c1, c2, c3, c4, c5] = .ok (.read6 (c1.extractLsb' 0 5 ++ c2 ++ c3) c4) ∧
    decodeCommand [0xDA, c1, c2, c3, c4, c5, c6, c7, c8, c9] = .ok .pause ∧
    decodeCommand [0xDD, c1, c2, c3, c4, c5, c6, c7, c8, c9] = .ok .getSubchannelQ ∧
    decodeCommand [0xDE, c1, c2, c3, c4, c5, c6, c7, c8, c9] = .ok (.getDirInfo c1 c2) ∧
    ∃ a : AudioAddr,
      decodeCommand [0xD8, c1, c2, c3, c4, c5, c6, c7, c8, c9] = .ok (.setAudioStart (c1.extractLsb' 0 2) a) ∧
      decodeCommand [0xD9, c1, c2, c3, c4, c5, c6, c7, c8, c9] = .ok (.setAudioEnd (c1.extractLsb' 0 2) a) ∧
      (c9.extractLsb' 6 2 = 0#2 → a = .lba (c3 ++ c4 ++ c5)) ∧
      (c9.extractLsb' 6 2 = 1#2 → a = .msf c2 c3 c4) ∧
      (c9.extractLsb' 6 2 = 2#2 → a = .track c2) ∧
      (c9.extractLsb' 6 2 = 3#2 → a = .reserved)

/-- The illegal host-operation words are those of R101, and performing one is the fault IllegalHostOp, which leaves the state before it
with the fault recorded (R352); every other word is an instruction. The last clause is the row of the reserved kind (log 2). -/
def Obligations.IllegalHostWords : Prop :=
  (∀ (s : State) (w : HostWord), s.fault = none → s.program[s.hpc]? = some w →
    let kind := w.extractLsb' 12 2
    let sel := w.extractLsb' 8 4
    let data := w.extractLsb' 0 8
    let illegal := kind = 3#2 ∨ (kind = 0#2 ∧ data ≠ 0#8) ∨ (kind = 2#2 ∧ 8#4 ≤ sel) ∨
      (kind = 2#2 ∧ sel ≠ 7#4 ∧ data ≠ 0#8) ∨ (kind = 2#2 ∧ sel = 7#4 ∧ 1#8 < data)
    (illegal → step s = .fault .illegalHostOp ∧ stateAfter s = { s with fault := some .illegalHostOp }) ∧
    (¬ illegal → ∃ i, decodeHostOp w = .ok i ∧ ∀ low, i ≠ .reserved low)) ∧
  ∀ (low : BitVec 12) (s : State), exec (.reserved low) s = .next { s with fault := some .illegalHostOp }

/-- Words and blocks written out from the spec's encodings decode to what they stand for (95_test_vectors.md V-ENC-1 to V-ENC-4,
V-ENC-11, V-ENC-12, V-CMD-24, P4). -/
def Obligations.SpecWordsDecode : Prop :=
  decodeHostOp 0x0300#14 = .ok .rd0x3 ∧
  decodeHostOp 0x1D58#14 = .ok (.wr0xD 0x58) ∧
  decodeHostOp 0x1F09#14 = .ok (.fade0x9 0x0) ∧
  decodeHostOp 0x2200#14 = .ok .evTickNibble ∧
  decodeHostOp 0x2701#14 = .ok (.evPollAudio true) ∧
  decode (.cdb [0x08, 0xE1, 0x00, 0x00, 0x01, 0x00]) = .ok (.read6 0x010000 1) ∧
  decode (.cdb [0xD8, 0x00, 0x00, 0x00, 0x03, 0xE8, 0x00, 0x00, 0x00, 0x00]) =
    .ok (.setAudioStart 0 (.lba 1000)) ∧
  decode (.cdbSub [0xDE, 0x02, 0xAA, 0x00, 0x00, 0x00, 0x00, 0x00, 0x00, 0x00]) = .ok (.dirInfoTrackStart 0xAA)

/-- A frame converted to BCD minute, second and frame and back through the audio address decoder is itself below the lead-in correction
of 525, and 525 less from there on, up to 449999 (95_test_vectors.md W3: an inference the spec marks as its own, from R109 and R111). -/
def Obligations.MsfRoundTrip : Prop :=
  ∀ (config : Config) (f : Nat), config.leadIn = 525 → f ≤ 449999 →
    audioAddr config (.msf (bcdEnc (f / 4500)) (bcdEnc (f / 75 % 60)) (bcdEnc (f % 75))) =
      .ok (BitVec.ofNat 32 (if f < 525 then f else f - 525))

/-- The BCD helpers (R111) and the conversion of a frame to MSF (R112). -/
def Obligations.BcdAndMsf : Prop :=
  (∀ b : Byte, bcdDec b = (b.extractLsb' 4 4).toNat * 10 + (b.extractLsb' 0 4).toNat) ∧
  (∀ n : Nat, (bcdEnc n).toNat = (n / 10 % 16 * 16 + n % 10) % 256) ∧
  (∀ n : Nat, n ≤ 99 → bcdDec (bcdEnc n) = n) ∧
  bcdDec 0x1A = 20 ∧ bcdEnc 100 = 0xA0 ∧
  (∀ f : Nat, msf f = [bcdEnc (f / 4500), bcdEnc (f / 75 % 60), bcdEnc (f % 75)]) ∧
  msf 4650 = [0x01, 0x02, 0x00]

/-- The audio address decoder, form by form (R109). -/
def Obligations.AudioAddressForms : Prop :=
  ∀ config : Config,
    (∀ frame : BitVec 24, audioAddr config (.lba frame) = .ok (frame.setWidth 32)) ∧
    (∀ m s f : Byte,
      let x := (bcdDec m * 60 + bcdDec s) * 75 + bcdDec f
      audioAddr config (.msf m s f) = .ok (BitVec.ofNat 32 (if config.leadIn ≤ x then x - config.leadIn else x))) ∧
    (∀ n : Byte, config.disc = none → audioAddr config (.track n) = .error .noDisc) ∧
    (∀ (d : Disc) (n : Byte), config.disc = some d →
      (bcdDec n = 0 ∨ d.tracks.length < bcdDec n → audioAddr config (.track n) = .error .trackOutOfRange) ∧
      (∀ t, 1 ≤ bcdDec n → d.tracks[bcdDec n - 1]? = some t → audioAddr config (.track n) = .ok t.start)) ∧
    audioAddr config .reserved = .error .addressType3

/-! ## The step -/

/-- When the word at `hpc` decodes to i, a step is exec of i: a next state without a fault has `hpc` moved on and the `irq` level
recorded (R21, R79, R103); one that took a fault is the step's fault (R352; that `exec` hands a fault over in this form is log 2); and a
refusal is the step's. R21 counts only host operations in `hpc`: that an agent event moves it on too is the model's choice (log 1). -/
def Obligations.StepRunsDecodedInstruction : Prop :=
  ∀ (s : State) (w : HostWord) (i : Instr), s.fault = none → s.program[s.hpc]? = some w → decodeHostOp w = .ok i →
    (∀ t, exec i s = .next t → t.fault = none →
      step s = .next { t with hpc := t.hpc + 1, hist := t.hist ++ [.irq (irqLine t)] }) ∧
    (∀ t f, exec i s = .next t → t.fault = some f → step s = .fault f) ∧
    (∀ f, exec i s ≠ .fault f) ∧
    (∀ r, exec i s = .refused r → step s = .refused r)

/-- The fall of ACK in Command phase with bytes in the buffer dispatches (R149): an opcode outside the table faults, a block short of
its opcode's length asks for the next byte, and a complete block runs the command it is, from the state with an empty buffer; the pump
then carries the command's outcome to rest. Faults are taken as log 2 says, and a command row is its handler (log 19). -/
def Obligations.DispatchRunsCommand : Prop :=
  ∀ (s : State) (v op : Byte) (rest : List Byte), BusInv s → s.fault = none →
    (s.bus.bsy, s.bus.cd, s.bus.msg, s.bus.io) = (true, true, false, false) →
    s.bus.ack = true → v[7] = false → s.bus.commandBuffer = op :: rest →
    let table : List (Byte × Nat) := [(0x00, 6), (0x08, 6), (0xD8, 10), (0xD9, 10), (0xDA, 10), (0xDD, 10), (0xDE, 10)]
    let u : State := { s.setReg 0x2 v with bus.ack := false }
    ((∀ n, (op, n) ∉ table) → exec (.wr0x2 v) s = .next { s with fault := some (.unknownOpcode op) }) ∧
    (∀ n, (op, n) ∈ table → rest.length + 1 ≠ n → exec (.wr0x2 v) s = .next { u with bus.req := true }) ∧
    (∀ n, (op, n) ∈ table → rest.length + 1 = n →
      ∃ c t, decodeCommand (op :: rest) = .ok c ∧ exec c.toInstr { u with bus.commandBuffer := [] } = .next t ∧
        (t.fault = none → ∃ w, pump t = .ok w ∧ exec (.wr0x2 v) s = .next w) ∧
        (∀ f, t.fault = some f → exec (.wr0x2 v) s = .next { s with fault := some f }))

/-- A step that raises answers the fault and leaves the state it found with the fault recorded, which is what its instruction answers; a
step that answers a next state raised nothing; and after a recorded fault no agent has a step (R352; log 2, log 3). -/
def Obligations.FaultsRollBackAndStick : Prop :=
  (∀ s t : State, step s = .next t → s.fault = none ∧ t.fault = none) ∧
  (∀ (s : State) (f : Fault), step s = .fault f → s.fault = none ∧ stateAfter s = { s with fault := some f }) ∧
  (∀ (i : Instr) (s t : State) (f : Fault), s.fault = none → exec i s = .next t → t.fault = some f →
    t = { s with fault := some f }) ∧
  (∀ (s : State) (f : Fault), s.fault = some f → step s = .refused (.faulted f) ∧ stateAfter s = s)

/-- An event whose agent is not enabled is refused, and so is a step past the end of the host program (R20, R102, R103, R10; log 3). -/
def Obligations.NotEnabledIsRejected : Prop :=
  ∀ s : State,
    (s.audio.sectorTimerArmed = false → exec .evTickSector s = .refused (.notEnabled .sectorTimer)) ∧
    (s.adpcm.dmaTimerArmed = false → exec .evTickDma s = .refused (.notEnabled .dmaTimer)) ∧
    (s.adpcm.playing = false → exec .evTickNibble s = .refused (.notEnabled .nibbleClock)) ∧
    (s.fadeCd.fadeIn = .off → exec .evFadeCdIn s = .refused (.notEnabled .fadeCdIn)) ∧
    (s.fadeCd.fadeOut = .off → exec .evFadeCdOut s = .refused (.notEnabled .fadeCdOut)) ∧
    (s.fadeAd.fadeIn = .off → exec .evFadeAdIn s = .refused (.notEnabled .fadeAdIn)) ∧
    (s.fadeAd.fadeOut = .off → exec .evFadeAdOut s = .refused (.notEnabled .fadeAdOut)) ∧
    (s.fault = none → s.hpc = s.program.length → step s = .refused .programEnded)

/-- No step changes a parameter of the run: DISC and the rest of the configuration, and the host program (R49). -/
def Obligations.StepKeepsParameters : Prop :=
  (∀ s t : State, step s = .next t → t.config = s.config ∧ t.program = s.program) ∧
  ∀ s : State, (stateAfter s).config = s.config ∧ (stateAfter s).program = s.program

/-- The `irq` line is the OR of the enabled sources (R47), and a step that answers a next state records it last (R79). R47 and R79 say
"after every step"; that a step which raises records nothing is R352, as log 2 reads it. -/
def Obligations.IrqLineLevel : Prop :=
  (∀ s : State, irqLine s = true ↔ s.getReg 0x2 &&& s.bus.irqStatus &&& 0x7C#8 ≠ 0#8) ∧
  (∀ s t : State, step s = .next t → t.hist.getLast? = some (.irq (irqLine t)))

/-! ## Power-on -/

/-- The state at power-on (R51). What stands in RAM and in the data buffer, which R51 calls draws, is by the model's choice two constants
with no value known (log 5, log 6); the end of the disc is its 32-bit frame number (R31), and one past 32 bits, for which no rule states
a value, is by the model's choice a free value (log 12). -/
def Obligations.PowerOnValues : Prop :=
  ∀ (config : Config) (program : List HostWord) (answers : List Frame),
    let s := State.powerOn config program answers
    s.hpc = 0 ∧
    (s.bus.bsy, s.bus.sel, s.bus.cd, s.bus.io, s.bus.msg, s.bus.req, s.bus.ack, s.bus.atn, s.bus.rst) =
      (false, false, false, false, false, false, false, false, false) ∧
    (s.bus.selected, s.bus.lastRst) = (false, false) ∧ s.bus.dataReg = 0x00 ∧ s.bus.commandBuffer = [] ∧
    (∀ i, dataByte s i = Config.dataBufferAtPowerOn i) ∧ (s.bus.dataIndex, s.bus.dataSize) = (0, 0) ∧
    (s.bus.messageAfterStatus, s.bus.statusSent, s.bus.messageSent, s.bus.dataTransferred) =
      (false, false, false, false) ∧
    s.bus.irqStatus = 0x00 ∧
    s.audio.currentFrame = 0 ∧ s.audio.endFrame = s.audio.lastFrame ∧
    (config.disc = none → s.audio.lastFrame = 0) ∧
    (∀ d t, config.disc = some d → d.tracks.getLast? = some t → t.start.toNat + t.frames.toNat < 2 ^ 32 →
      s.audio.lastFrame = t.start + t.frames) ∧
    (∀ d t, config.disc = some d → d.tracks.getLast? = some t → 2 ^ 32 ≤ t.start.toNat + t.frames.toNat →
      s.audio.lastFrame = Config.frameOverflow (t.start.toNat + t.frames.toNat)) ∧
    (s.audio.playbackStatus, s.audio.playMode, s.audio.endOfTrackArmed) = (.off, .noEnd, false) ∧
    (s.audio.sectorTimerArmed, s.adpcm.dmaTimerArmed, s.adpcm.dmaBusy) = (false, false, false) ∧
    (∀ a, memRead s a = Config.ramAtPowerOn a) ∧
    (s.adpcm.readPointer, s.adpcm.writePointer, s.adpcm.readHoldoff, s.adpcm.writeHoldoff) = (0, 0, 0, 0) ∧
    (s.adpcm.playStartAddress, s.adpcm.playEndAddress, s.adpcm.playHalfAddress) = (0, 0, 0) ∧
    (s.adpcm.nibbleSelector, s.adpcm.playing) = (false, false) ∧
    s.adpcm.lengthRegister = 0 ∧ s.adpcm.clockDivider = 16 ∧ (∀ r, s.getReg r = 0x00) ∧ s.bramLocked = true ∧
    (s.fadeCd.volume, s.fadeAd.volume) = (100, 100) ∧
    (s.fadeCd.fadeIn, s.fadeCd.fadeOut, s.fadeAd.fadeIn, s.fadeAd.fadeOut) = (.off, .off, .off, .off) ∧
    s.fault = none ∧ s.hist = []

/-- The power-on state meets every invariant that a step keeps, and the state after reset is one of those. -/
def Obligations.PowerOnMeetsInvariants : Prop :=
  (∀ (config : Config) (program : List HostWord) (answers : List Frame),
    let s := State.powerOn config program answers
    BusInv s ∧ AdpcmInv s ∧ FadesInv s ∧ AudioInv s) ∧
  BusInv State.reset ∧ AdpcmInv State.reset ∧ FadesInv State.reset ∧ AudioInv State.reset ∧
  StartModeTable.armsWithAction Config.standard.startMode

/-! ## Host reads -/

/-- Registers 0x0 and 0x3, reads (R303): the bus lines; the IRQ status with bits 7, 1 and 0 drawn, and the lock of BRAM. Which drawn byte
the three bits come from, and that the counter of draws moves on, is the model's choice (log 4). -/
def Obligations.StatusRegisterReads : Prop :=
  ∀ s : State,
    (∃ v : Byte, exec .rd0x0 s = .next { s with hist := s.hist ++ [.read 0x0 v] } ∧
      v[7] = s.bus.bsy ∧ v[6] = s.bus.req ∧ v[5] = s.bus.msg ∧ v[4] = s.bus.cd ∧ v[3] = s.bus.io ∧
      v.extractLsb' 0 3 = 0#3) ∧
    exec .rd0x3 s = .next { s with
      bramLocked := true
      hist := s.hist ++ [.read 0x3 ((s.bus.irqStatus &&& 0x7C) ||| (Config.freeByte s.draws &&& 0x83))]
      draws := s.draws + 1 }

/-- The reads of stored bytes and of the data register, which change nothing but the history (R301, R302, R304, R308, R312, R314,
R317). -/
def Obligations.StoredRegisterReads : Prop :=
  ∀ s : State,
    exec .rd0x1 s = .next { s with hist := s.hist ++ [.read 0x1 s.bus.dataReg] } ∧
    exec .rd0x2 s = .next { s with hist := s.hist ++ [.read 0x2 (s.getReg 0x2)] } ∧
    exec .rd0x4 s = .next { s with hist := s.hist ++ [.read 0x4 (s.getReg 0x4)] } ∧
    exec .rd0x9 s = .next { s with hist := s.hist ++ [.read 0x9 (s.getReg 0x9)] } ∧
    exec .rd0xB s = .next { s with hist := s.hist ++ [.read 0xB (s.getReg 0xB)] } ∧
    exec .rd0xD s = .next { s with hist := s.hist ++ [.read 0xD (s.getReg 0xD)] } ∧
    exec .rd0xE s = .next { s with hist := s.hist ++ [.read 0xE (s.getReg 0xE)] } ∧
    exec .rd0xF s = .next { s with hist := s.hist ++ [.read 0xF (s.getReg 0xF)] }

/-- Register 0xC, read: PLAY in bit 3, BUSY in bit 2, STOP in bit 0 (R313). -/
def Obligations.AdpcmStatusRead : Prop :=
  ∀ s : State, ∃ v : Byte, exec .rd0xC s = .next { s with hist := s.hist ++ [.read 0xC v] } ∧
    v.extractLsb' 4 4 = 0#4 ∧ v[3] = s.adpcm.playing ∧ v[2] = s.adpcm.dmaBusy ∧ v[1] = false ∧
    v[0] = !s.adpcm.playing

/-- Register 0x7: a write stores its byte and, with bit 7 set, unlocks BRAM (R305); a read shows the lock in bit 7 (R309). -/
def Obligations.BramUnlockAndRead : Prop :=
  (∀ (s : State) (v : Byte), AtRest s →
    exec (.wr0x7 v) s = .next { s.setReg 0x7 v with bramLocked := if v[7] then false else s.bramLocked }) ∧
  (∀ s : State, exec .rd0x7 s = .next { s with
    hist := s.hist ++ [.read 0x7 ((s.getReg 0x7 &&& 0x7F) ||| (if s.bramLocked then 0x00 else 0x80))] })

/-- Registers 0x5 and 0x6 (R306): a read returns a drawn byte and changes nothing else; a write stores its byte only. Which drawn byte a
read returns, and that the counter of draws moves on, is the model's choice (log 4). -/
def Obligations.CddaSampleRegisters : Prop :=
  (∀ s : State,
    exec .rd0x5 s = .next { s with hist := s.hist ++ [.read 0x5 (Config.freeByte s.draws)], draws := s.draws + 1 } ∧
    exec .rd0x6 s = .next { s with hist := s.hist ++ [.read 0x6 (Config.freeByte s.draws)], draws := s.draws + 1 }) ∧
  (∀ (s : State) (v : Byte), AtRest s →
    exec (.wr0x5 v) s = .next (s.setReg 0x5 v) ∧ exec (.wr0x6 v) s = .next (s.setReg 0x6 v))

/-- Register 0xA, read: while the holdoff runs it reads 0x00 and counts down, then it reads RAM and the pointer advances modulo 65536
(R236). -/
def Obligations.RamPortRead : Prop :=
  ∀ s : State,
    (0 < s.adpcm.readHoldoff → exec .rd0xA s = .next { s with
      adpcm.readHoldoff := s.adpcm.readHoldoff - 1, hist := s.hist ++ [.read 0xA 0x00] }) ∧
    (s.adpcm.readHoldoff = 0 → exec .rd0xA s = .next { s with
      adpcm.readPointer := s.adpcm.readPointer + 1
      hist := s.hist ++ [.read 0xA (memRead s s.adpcm.readPointer.toNat)] })

/-- Register 0x8, read (R155, R311, R152): it returns the data byte; while a data-in byte is offered it completes the handshake, so
that the next byte is placed, or the drained buffer waits for the next sector, or the OK status follows with IRQ_DONE. -/
def Obligations.DataInRead : Prop :=
  ∀ s : State, BusInv s →
    let r : State := { s with hist := s.hist ++ [.read 0x8 s.bus.dataReg] }
    ((s.bus.req && !s.bus.ack && !s.bus.cd && s.bus.io) = false → exec .rd0x8 s = .next r) ∧
    (s.bus.req = true → s.bus.ack = false → s.bus.cd = false → s.bus.io = true →
      (s.bus.dataIndex ≠ s.bus.dataSize → exec .rd0x8 s = .next { r with
        bus.dataReg := dataByte s s.bus.dataIndex, bus.dataIndex := s.bus.dataIndex + 1 }) ∧
      (s.bus.dataIndex = s.bus.dataSize → s.bus.dataTransferred = false → exec .rd0x8 s = .next { r with
        bus.req := false, bus.irqStatus := s.bus.irqStatus &&& 0xBF }) ∧
      (s.bus.dataIndex = s.bus.dataSize → s.bus.dataTransferred = true → exec .rd0x8 s = .next { r with
        bus.cd := true, bus.io := true, bus.req := true, bus.msg := false
        bus.messageAfterStatus := true, bus.statusSent := false, bus.messageSent := false, bus.dataReg := 0x00
        bus.dataTransferred := false, bus.irqStatus := (s.bus.irqStatus &&& 0xBF) ||| 0x20 }))

/-! ## Host writes -/

/-- Writes to registers 0x3 and 0xC are discarded and change no state (R315). -/
def Obligations.DiscardedWrites : Prop :=
  ∀ (s : State) (v : Byte), AtRest s → exec (.wr0x3 v) s = .next s ∧ exec (.wr0xC v) s = .next s

/-- Register 0x1, write: the data register and the stored byte (R301). Registers 0x8 and 0x9, writes: the two halves of the ADPCM
address, stored only (R307, R308). -/
def Obligations.DataAndAddressWrites : Prop :=
  ∀ (s : State) (v : Byte), AtRest s →
    exec (.wr0x1 v) s = .next { s.setReg 0x1 v with bus.dataReg := v } ∧
    exec (.wr0x8 v) s = .next (s.setReg 0x8 v) ∧
    exec (.wr0x9 v) s = .next (s.setReg 0x9 v)

/-- Register 0x0, write (R300, R143): the SEL pulse selects a target that is not selected; with ACK held the first command byte is taken
in the same pump (R148), or the fault CommandOverflow is taken (log 2). Every write clears IRQ bits 6 to 4 and stops the DMA timer. -/
def Obligations.SelectWrite : Prop :=
  ∀ (s : State) (v : Byte), BusInv s →
    let t : State := { s.setReg 0x0 v with
      adpcm.dmaTimerArmed := false, bus.irqStatus := s.bus.irqStatus &&& ~~~0x70#8 }
    (s.bus.selected = true → exec (.wr0x0 v) s = .next t) ∧
    (s.bus.selected = false → s.bus.ack = false → exec (.wr0x0 v) s = .next { t with
      bus.selected := true, bus.bsy := true, bus.req := true, bus.cd := true, bus.io := false, bus.msg := false }) ∧
    (s.bus.selected = false → s.bus.ack = true → s.bus.commandBuffer.length ≠ 256 →
      exec (.wr0x0 v) s = .next { t with
        bus.selected := true, bus.bsy := true, bus.req := false, bus.cd := true, bus.io := false, bus.msg := false
        bus.commandBuffer := s.bus.commandBuffer ++ [s.bus.dataReg] }) ∧
    (s.bus.selected = false → s.bus.ack = true → s.bus.commandBuffer.length = 256 →
      exec (.wr0x0 v) s = .next { s with fault := some .commandOverflow })

/-- Register 0x2, write, where no handshake moves (R302, R400, R401): ACK stays as it is, or rises with no REQ, or falls with nothing
pending in the phase. -/
def Obligations.AckWithNothingPending : Prop :=
  ∀ (s : State) (v : Byte), BusInv s →
    (v[7] = s.bus.ack → exec (.wr0x2 v) s = .next (s.setReg 0x2 v)) ∧
    (v[7] = true → s.bus.ack = false → s.bus.req = false →
      exec (.wr0x2 v) s = .next { s.setReg 0x2 v with bus.ack := true }) ∧
    (v[7] = false → s.bus.ack = true →
      (s.bus.bsy = false ∨
       ((s.bus.cd, s.bus.msg, s.bus.io) = (true, false, false) ∧ s.bus.commandBuffer = []) ∨
       ((s.bus.cd, s.bus.msg, s.bus.io) = (true, false, true) ∧ s.bus.statusSent = false) ∨
       ((s.bus.cd, s.bus.msg, s.bus.io) = (true, true, true) ∧ s.bus.messageSent = false)) →
      exec (.wr0x2 v) s = .next { s.setReg 0x2 v with bus.ack := false })

/-- Command phase, the rise of ACK while REQ is set (R148): the byte is appended and REQ falls; a 257th byte is the fault
CommandOverflow (log 2). -/
def Obligations.AckTakesCommandByte : Prop :=
  ∀ (s : State) (v : Byte), BusInv s →
    (s.bus.bsy, s.bus.cd, s.bus.msg, s.bus.io) = (true, true, false, false) → s.bus.req = true → v[7] = true →
    (s.bus.commandBuffer.length ≠ 256 → exec (.wr0x2 v) s = .next { s.setReg 0x2 v with
      bus.ack := true, bus.req := false, bus.commandBuffer := s.bus.commandBuffer ++ [s.bus.dataReg] }) ∧
    (s.bus.commandBuffer.length = 256 → exec (.wr0x2 v) s = .next { s with fault := some .commandOverflow })

/-- Status phase (R147): the rise of ACK takes the status byte; its fall enters MessageIn with the message byte, if one is armed. -/
def Obligations.AckTakesStatus : Prop :=
  ∀ (s : State) (v : Byte), BusInv s →
    (s.bus.bsy, s.bus.cd, s.bus.msg, s.bus.io) = (true, true, false, true) →
    (s.bus.req = true → v[7] = true → exec (.wr0x2 v) s = .next { s.setReg 0x2 v with
      bus.ack := true, bus.req := false, bus.statusSent := true }) ∧
    (s.bus.ack = true → v[7] = false → s.bus.statusSent = true →
      (s.bus.messageAfterStatus = true → exec (.wr0x2 v) s = .next { s.setReg 0x2 v with
        bus.ack := false, bus.statusSent := false, bus.messageAfterStatus := false
        bus.msg := true, bus.req := true, bus.dataReg := 0x00 }) ∧
      (s.bus.messageAfterStatus = false → exec (.wr0x2 v) s = .next { s.setReg 0x2 v with
        bus.ack := false, bus.statusSent := false }))

/-- MessageIn phase (R145): the rise of ACK takes the message byte; its fall frees the bus, which is released in the same pump, with
IRQ_DONE cleared (R142). -/
def Obligations.AckTakesMessage : Prop :=
  ∀ (s : State) (v : Byte), BusInv s →
    (s.bus.bsy, s.bus.cd, s.bus.msg, s.bus.io) = (true, true, true, true) →
    (s.bus.req = true → v[7] = true → exec (.wr0x2 v) s = .next { s.setReg 0x2 v with
      bus.ack := true, bus.req := false, bus.messageSent := true }) ∧
    (s.bus.ack = true → v[7] = false → s.bus.messageSent = true → exec (.wr0x2 v) s = .next { s.setReg 0x2 v with
      bus.ack := false, bus.messageSent := false, bus.bsy := false, bus.selected := false
      bus.cd := false, bus.msg := false, bus.io := false, bus.req := false
      bus.irqStatus := s.bus.irqStatus &&& 0xDF })

/-- DataIn phase (R152): the rise of ACK takes the byte; its fall places the next byte, or finds the buffer drained, which clears
IRQ_READY and, when `dataTransferred`, replies OK and sets IRQ_DONE. -/
def Obligations.AckTakesDataByte : Prop :=
  ∀ (s : State) (v : Byte), BusInv s → (s.bus.bsy, s.bus.cd, s.bus.io) = (true, false, true) →
    let u : State := { s.setReg 0x2 v with bus.ack := false }
    (s.bus.req = true → v[7] = true → exec (.wr0x2 v) s = .next { s.setReg 0x2 v with
      bus.ack := true, bus.req := false }) ∧
    (s.bus.ack = true → v[7] = false →
      (s.bus.dataIndex ≠ s.bus.dataSize → exec (.wr0x2 v) s = .next { u with
        bus.dataReg := dataByte s s.bus.dataIndex, bus.dataIndex := s.bus.dataIndex + 1, bus.req := true }) ∧
      (s.bus.dataIndex = s.bus.dataSize → s.bus.dataTransferred = false → exec (.wr0x2 v) s = .next { u with
        bus.irqStatus := s.bus.irqStatus &&& 0xBF }) ∧
      (s.bus.dataIndex = s.bus.dataSize → s.bus.dataTransferred = true → exec (.wr0x2 v) s = .next { u with
        bus.cd := true, bus.io := true, bus.req := true, bus.msg := false
        bus.messageAfterStatus := true, bus.statusSent := false, bus.messageSent := false, bus.dataReg := 0x00
        bus.dataTransferred := false, bus.irqStatus := (s.bus.irqStatus &&& 0xBF) ||| 0x20 }))

/-- Register 0x4, write (R304), and the reset edge (R141): a rise of bit 1 frees the bus, stops CD-DA and disarms the DMA timer, and
leaves everything else; a fall only allows the next edge; the same level does nothing. -/
def Obligations.ResetLineWrite : Prop :=
  ∀ (s : State) (v : Byte), BusInv s →
    (v[1] = s.bus.rst → exec (.wr0x4 v) s = .next (s.setReg 0x4 v)) ∧
    (v[1] = false → s.bus.rst = true → exec (.wr0x4 v) s = .next { s.setReg 0x4 v with
      bus.rst := false, bus.lastRst := false }) ∧
    (v[1] = true → s.bus.rst = false → exec (.wr0x4 v) s = .next { s.setReg 0x4 v with
      bus.rst := true, bus.lastRst := true
      bus.bsy := false, bus.sel := false, bus.cd := false, bus.io := false, bus.msg := false
      bus.req := false, bus.atn := false, bus.selected := false
      audio.playbackStatus := .off
      adpcm.dmaTimerArmed := false
      hist := s.hist ++ [.playerStop] })

/-- Register 0xA, write (R234): the byte is discarded while the holdoff runs, else it is stored at `writePointer`, which advances modulo
65536, and no other byte of RAM changes. -/
def Obligations.RamPortWrite : Prop :=
  ∀ (s : State) (v : Byte), AtRest s →
    (0 < s.adpcm.writeHoldoff → exec (.wr0xA v) s = .next { s.setReg 0xA v with
      adpcm.writeHoldoff := s.adpcm.writeHoldoff - 1 }) ∧
    (s.adpcm.writeHoldoff = 0 → ∃ t, exec (.wr0xA v) s = .next t ∧
      t = { s.setReg 0xA v with adpcm.ram := t.adpcm.ram, adpcm.writePointer := s.adpcm.writePointer + 1 } ∧
      memRead t s.adpcm.writePointer.toNat = v ∧
      ∀ a, a ≠ s.adpcm.writePointer.toNat → memRead t a = memRead s a)

/-- Register 0xB, write: a byte with bits 1 to 0 not 0 arms the DMA timer and sets the busy bit; any other byte is stored only (R231). -/
def Obligations.DmaControlWrite : Prop :=
  ∀ (s : State) (v : Byte), AtRest s →
    (v.extractLsb' 0 2 = 0#2 → exec (.wr0xB v) s = .next (s.setReg 0xB v)) ∧
    (v.extractLsb' 0 2 ≠ 0#2 → exec (.wr0xB v) s = .next { s.setReg 0xB v with
      adpcm.dmaTimerArmed := true, adpcm.dmaBusy := true })

/-- Register 0xD, write (R237 to R239): the ADPCM reset on a fall of bit 7, play start on a rise of bit 6 and stop while it is 0, then
the length, read-address and write-address sets, each on its own. -/
def Obligations.AdpcmControlWrite : Prop :=
  ∀ (s : State) (v : Byte), AtRest s →
    let old := s.getReg 0xD
    let a : Addr := s.getReg 0x9 ++ s.getReg 0x8
    let reset := old[7] && !v[7]
    let start := v[6] && !old[6]
    let rp := if reset then 0 else s.adpcm.readPointer
    exec (.wr0xD v) s = .next { s.setReg 0xD v with
      adpcm.readPointer := if v[3] then a else rp
      adpcm.readHoldoff := if v[3] then 2 else s.adpcm.readHoldoff
      adpcm.writePointer := if v[1] then a else if reset then 0 else s.adpcm.writePointer
      adpcm.writeHoldoff := if v[1] then (if v[0] then 1 else 0) else s.adpcm.writeHoldoff
      adpcm.lengthRegister := if v[4] then a else s.adpcm.lengthRegister
      adpcm.playStartAddress := if start then rp.toNat else if reset then 0 else s.adpcm.playStartAddress
      adpcm.playEndAddress := if start then rp + s.adpcm.lengthRegister
        else if reset then 0 else s.adpcm.playEndAddress
      adpcm.playHalfAddress := if start then rp + s.adpcm.lengthRegister / 2
        else if reset then 0 else s.adpcm.playHalfAddress
      adpcm.nibbleSelector := if start then false else if reset then false else s.adpcm.nibbleSelector
      adpcm.playing := if start then true else if !v[6] then false else if reset then false else s.adpcm.playing
      hist := s.hist ++ (if reset then [.clockReset true] else []) ++
        (if start then [.clockReset false] else if !v[6] then [.clockReset true] else []) }

/-- Register 0xE, write: the divider is 16 less bits 3 to 0, and it is pushed to the clock on every write; the sample clock it gives
(R243). -/
def Obligations.PlaybackRateWrite : Prop :=
  (∀ (s : State) (v : Byte), AtRest s →
    let d := 16 - (v.extractLsb' 0 4).toNat
    1 ≤ d ∧ d ≤ 16 ∧
    exec (.wr0xE v) s = .next { s.setReg 0xE v with
      adpcm.clockDivider := d, hist := s.hist ++ [.clockDivider d] }) ∧
  (∀ s : State, sampleClockHz s = s.config.adpcmBaseClock / (6 * s.adpcm.clockDivider))

/-- Register 0xF, write, where no program applies (R271, R275): the same byte again does nothing; a code outside the table is flagged in
the history and stored. -/
def Obligations.FadeRegisterWrite : Prop :=
  ∀ (s : State) (v : Byte), AtRest s →
    (v = s.getReg 0xF → exec (.wr0xF v) s = .next s) ∧
    (v ≠ s.getReg 0xF → v.extractLsb' 0 4 ∉ [0x0#4, 0x1#4, 0x8#4, 0x9#4, 0xA#4, 0xC#4, 0xD#4, 0xE#4] →
      exec (.wr0xF v) s = .next { s.setReg 0xF v with
        hist := s.hist ++ [.unknownFadeProgram (v.extractLsb' 0 4)] })

/-- The fade programs (R272 to R274): a byte that differs from the stored one starts its program's fades, whatever its high nibble; the
same byte again does nothing (R271). -/
def Obligations.FadePrograms : Prop :=
  ∀ (s : State) (high : BitVec 4), AtRest s →
    let fadeIn : FadeChannel := { volume := 0, fadeIn := .armed .us100, fadeOut := .off }
    let short : FadeChannel := { volume := 100, fadeIn := .off, fadeOut := .armed .us1500 }
    let long : FadeChannel := { volume := 100, fadeIn := .off, fadeOut := .armed .us5000 }
    let run (v : Byte) (cd ad : FadeChannel) : Host.Outcome State Fault Refusal :=
      .next (if v = s.getReg 0xF then s else { s.setReg 0xF v with fadeCd := cd, fadeAd := ad })
    exec (.fade0x0 high) s = run (high ++ 0x0#4) fadeIn fadeIn ∧
    exec (.fade0x1 high) s = run (high ++ 0x1#4) fadeIn s.fadeAd ∧
    exec (.fade0x8 high) s = run (high ++ 0x8#4) short fadeIn ∧
    exec (.fade0x9 high) s = run (high ++ 0x9#4) long s.fadeAd ∧
    exec (.fade0xA high) s = run (high ++ 0xA#4) s.fadeCd long ∧
    exec (.fade0xC high) s = run (high ++ 0xC#4) short fadeIn ∧
    exec (.fade0xD high) s = run (high ++ 0xD#4) short s.fadeAd ∧
    exec (.fade0xE high) s = run (high ++ 0xE#4) s.fadeCd short

/-! ## The steps of the other agents -/

/-- The sector tick (R200): a buffer not yet taken is left; else a sector is loaded, and on a bus that waits with REQ and ACK low its
first byte is placed. A frame number past 32 bits and the bytes of a failed read are free values, the model's choice (log 12, log 4). -/
def Obligations.SectorTick : Prop :=
  ∀ s : State, BusInv s → s.audio.sectorTimerArmed = true →
    (s.bus.dataIndex ≠ s.bus.dataSize → exec .evTickSector s = .next s) ∧
    (s.bus.dataIndex = s.bus.dataSize →
      let answer := readSector s.config.disc s.audio.currentFrame
      let bytes := answer.getD (drawnBytes s.draws 2048)
      let following := toFrame (s.audio.currentFrame.toNat + 1)
      let last := decide (following = s.audio.endFrame)
      let t : State := { s with
        bus.dataBuffer := bytes ++ s.bus.dataBuffer.drop 2048
        bus.dataIndex := 0, bus.dataSize := 2048, bus.io := true, bus.cd := false
        bus.irqStatus := s.bus.irqStatus ||| 0x40, bus.dataTransferred := last
        audio.currentFrame := following, audio.sectorTimerArmed := !last
        hist := s.hist ++ [.readSector s.audio.currentFrame answer.isSome bytes]
        draws := s.draws + (if answer.isSome then 0 else 2048) }
      bytes.length = 2048 ∧
      exec .evTickSector s = .next (if s.bus.bsy && !s.bus.req && !s.bus.ack then
        { t with bus.dataReg := dataByte t 0, bus.dataIndex := 1, bus.req := true } else t))

/-- The DMA tick (R232): a stall clears the busy bit and, with DMA_AUTO_DISARM and the sector timer off, disarms the timer; else one
byte moves to `writePointer`, with the handshake of a read of register 0x8 (R233), and no other byte of RAM changes. -/
def Obligations.DmaTick : Prop :=
  ∀ s : State, BusInv s → s.adpcm.dmaTimerArmed = true →
    ((s.bus.req && !s.bus.ack && !s.bus.cd && s.bus.io) = false → exec .evTickDma s = .next { s with
      adpcm.dmaBusy := false
      adpcm.dmaTimerArmed := !(s.config.dmaAutoDisarm && !s.audio.sectorTimerArmed) }) ∧
    (s.bus.req = true → s.bus.ack = false → s.bus.cd = false → s.bus.io = true →
      ∃ u t, exec .rd0x8 s = .next u ∧ exec .evTickDma s = .next t ∧
        t = { s with
          bus := u.bus, adpcm.ram := t.adpcm.ram, adpcm.writePointer := s.adpcm.writePointer + 1
          adpcm.dmaBusy := true } ∧
        memRead t s.adpcm.writePointer.toNat = s.bus.dataReg ∧
        ∀ a, a ≠ s.adpcm.writePointer.toNat → memRead t a = memRead s a)

/-- The nibble tick (R241): the high nibble, then the low one, after which the address advances and playback stops once it is past the
end. -/
def Obligations.NibbleTick : Prop :=
  ∀ s : State, AtRest s → s.adpcm.playing = true →
    let b := memRead s (s.adpcm.playStartAddress % 65536)
    let following := if s.config.playAddrWrap then (s.adpcm.playStartAddress + 1) % 65536
      else s.adpcm.playStartAddress + 1
    (s.adpcm.nibbleSelector = false → exec .evTickNibble s = .next { s with
      adpcm.nibbleSelector := true, hist := s.hist ++ [.clockNibble (b.extractLsb' 4 4)] }) ∧
    (s.adpcm.nibbleSelector = true → following ≤ s.adpcm.playEndAddress.toNat →
      exec .evTickNibble s = .next { s with
        adpcm.nibbleSelector := false, adpcm.playStartAddress := following
        hist := s.hist ++ [.clockNibble (b.extractLsb' 0 4)] }) ∧
    (s.adpcm.nibbleSelector = true → s.adpcm.playEndAddress.toNat < following →
      exec .evTickNibble s = .next { s with
        adpcm.nibbleSelector := false, adpcm.playStartAddress := following, adpcm.playing := false
        hist := s.hist ++ [.clockNibble (b.extractLsb' 0 4), .clockReset true] })

/-- The fade ticks (R276, R277): 10 up to 100 or 10 down to 0, pushed to the channel's sink, and the timer off at the bound. -/
def Obligations.FadeTicks : Prop :=
  ∀ (s : State) (p : FadePeriod), AtRest s →
    (s.fadeCd.fadeIn = .armed p → exec .evFadeCdIn s = .next { s with
      fadeCd.volume := min (s.fadeCd.volume + 10) 100
      fadeCd.fadeIn := if min (s.fadeCd.volume + 10) 100 = 100 then .off else .armed p
      hist := s.hist ++ [.playerSetVolume (min (s.fadeCd.volume + 10) 100)] }) ∧
    (s.fadeAd.fadeIn = .armed p → exec .evFadeAdIn s = .next { s with
      fadeAd.volume := min (s.fadeAd.volume + 10) 100
      fadeAd.fadeIn := if min (s.fadeAd.volume + 10) 100 = 100 then .off else .armed p
      hist := s.hist ++ [.clockSetVolume (min (s.fadeAd.volume + 10) 100)] }) ∧
    (s.fadeCd.fadeOut = .armed p → exec .evFadeCdOut s = .next { s with
      fadeCd.volume := s.fadeCd.volume - 10
      fadeCd.fadeOut := if s.fadeCd.volume - 10 = 0 then .off else .armed p
      hist := s.hist ++ [.playerSetVolume (s.fadeCd.volume - 10)] }) ∧
    (s.fadeAd.fadeOut = .armed p → exec .evFadeAdOut s = .next { s with
      fadeAd.volume := s.fadeAd.volume - 10
      fadeAd.fadeOut := if s.fadeAd.volume - 10 = 0 then .off else .armed p
      hist := s.hist ++ [.clockSetVolume (s.fadeAd.volume - 10)] })

/-- The audio-end poll (R201, R202): the query is recorded; an end acts by the play mode while the poll is armed, a
restart with the end before the position by the fault NegativeLength (log 2). -/
def Obligations.AudioEndPoll : Prop :=
  ∀ (s : State) (ended : Bool), AtRest s →
    let q : State := { s with hist := s.hist ++ [.playerHasEnded ended] }
    (ended = false ∨ s.audio.endOfTrackArmed = false → exec (.evPollAudio ended) s = .next q) ∧
    (ended = true → s.audio.endOfTrackArmed = true →
      (s.audio.playMode = .repeats → s.audio.currentFrame ≤ s.audio.endFrame →
        exec (.evPollAudio ended) s = .next { q with
          hist := q.hist ++ [.playerStart s.audio.currentFrame (s.audio.endFrame - s.audio.currentFrame)] }) ∧
      (s.audio.playMode = .repeats → s.audio.endFrame < s.audio.currentFrame →
        exec (.evPollAudio ended) s = .next { s with fault := some .negativeLength }) ∧
      (s.audio.playMode = .irqAtEnd → exec (.evPollAudio ended) s = .next { q with
        audio.endOfTrackArmed := false, bus.irqStatus := s.bus.irqStatus ||| 0x20 }) ∧
      (s.audio.playMode = .stopAtEnd → exec (.evPollAudio ended) s = .next { q with
        audio.endOfTrackArmed := false }) ∧
      (s.audio.playMode = .noEnd → exec (.evPollAudio ended) s = .next { q with
        audio.endOfTrackArmed := false }))

/-! ## Commands: from the state the dispatch hands them, an empty command buffer in Command phase (R149; log 19) -/

/-- TEST-UNIT-READY (R181), with the status reply written out (R150, R151). -/
def Obligations.TestUnitReady : Prop :=
  ∀ s : State, exec .testUnitReady s = .next { s with
    bus.cd := true, bus.io := true, bus.req := true, bus.msg := false
    bus.messageAfterStatus := true, bus.statusSent := false, bus.messageSent := false
    bus.dataReg := if s.config.disc = none then 0x01 else 0x00 }

/-- READ(6) (R182, R184): CHECK with no disc, OK for a count of 0, else any playback stops, the frames are recorded and the sector timer
is armed, with no reply. -/
def Obligations.ReadSix : Prop :=
  ∀ (frame : BitVec 21) (count : Byte) (s : State),
    (s.config.disc = none → exec (.read6 frame count) s = .next (replyStatus .check s)) ∧
    (s.config.disc ≠ none → count = 0 → exec (.read6 frame count) s = .next (replyStatus .ok s)) ∧
    (s.config.disc ≠ none → count ≠ 0 →
      (s.audio.playbackStatus = .off → exec (.read6 frame count) s = .next { s with
        audio.currentFrame := frame.setWidth 32
        audio.endFrame := frame.setWidth 32 + count.setWidth 32
        audio.sectorTimerArmed := true }) ∧
      (s.audio.playbackStatus ≠ .off → exec (.read6 frame count) s = .next { s with
        audio.currentFrame := frame.setWidth 32
        audio.endFrame := frame.setWidth 32 + count.setWidth 32
        audio.sectorTimerArmed := true
        audio.playbackStatus := .off, audio.endOfTrackArmed := false
        hist := s.hist ++ [.playerStop] }))

/-- SET-AUDIO-START (R186), under its own row or its address type's: CHECK with no disc; the address's fault (log 2); the end, mode and
arming that START_MODE gives (R187), with the default table's rows. That START_MODE is a list of entries before four rows is the model's
choice of form (log 10), a track's end past 32 bits is a free value by the model's choice (log 12), and so is which Sector Source queries
are recorded (R84; log 15). Type 3 of the address raises as soon as a disc is there, so its row completes by the CHECK reply alone. -/
def Obligations.SetAudioStart : Prop :=
  (∀ (mode : BitVec 2) (addr : AudioAddr) (i : Instr) (s : State), IsAudioCommand .start mode addr i →
    let table := s.config.startMode
    (s.config.disc = none → exec i s = .next (replyStatus .check s)) ∧
    (∀ d, s.config.disc = some d →
      (∀ x, audioAddr s.config addr = .error x → exec i s = .next { s with fault := some x }) ∧
      (∀ f, audioAddr s.config addr = .ok f →
        ((∀ e ∈ table.given, e.bits = mode → e.start ≠ f) → (startRow table mode).extent = .thisTrack → trackOf d f = none →
          exec i s = .next { s with fault := some .frameOutsideTracks }) ∧
        (∀ (x : StartAnswer) (queries : List Event), StartModeGives table d s.audio.lastFrame mode f x queries →
          (x.endFrame < f → exec i s = .next { s with fault := some .negativeLength }) ∧
          (f ≤ x.endFrame →
            let asked : List Event := match addr with
              | .track _ => [.tableOfContents d.tracks]
              | _ => []
            exec i s = .next (replyStatus .ok { s with
              audio.currentFrame := f, audio.endFrame := x.endFrame, audio.playMode := x.mode
              audio.endOfTrackArmed := x.armed, audio.playbackStatus := .playing
              hist := s.hist ++ (asked ++ queries) ++ [.playerStart f (x.endFrame - f)] })))))) ∧
  StartModeTable.standard.given = [] ∧
  startRow StartModeTable.standard 0 = ⟨.thisTrack, .stopAtEnd, false⟩ ∧
  startRow StartModeTable.standard 1 = ⟨.wholeDisc, .stopAtEnd, false⟩ ∧
  startRow StartModeTable.standard 2 = ⟨.thisTrack, .repeats, true⟩ ∧
  startRow StartModeTable.standard 3 = ⟨.wholeDisc, .irqAtEnd, true⟩

/-- SET-AUDIO-END (R188), under its own row or its address type's: mode 0 stops, any other mode resumes a paused player or starts
one. Faults are taken as log 2 says; which Sector Source query an address records is the model's choice (R84; log 15). -/
def Obligations.SetAudioEnd : Prop :=
  ∀ (mode : BitVec 2) (addr : AudioAddr) (i : Instr) (s : State), IsAudioCommand .finish mode addr i →
    (s.config.disc = none → exec i s = .next (replyStatus .check s)) ∧
    (∀ d, s.config.disc = some d →
      (∀ x, audioAddr s.config addr = .error x → exec i s = .next { s with fault := some x }) ∧
      (∀ f, audioAddr s.config addr = .ok f →
        let asked : List Event := match addr with
          | .track _ => [.tableOfContents d.tracks]
          | _ => []
        (mode = 0 → exec i s = .next (replyStatus .ok { s with
          audio.endFrame := s.audio.lastFrame, audio.playMode := .noEnd
          audio.playbackStatus := .off, audio.endOfTrackArmed := false
          hist := s.hist ++ asked ++ [.playerStop] })) ∧
        (∀ m, (mode = 1 ∧ m = .repeats) ∨ (mode = 2 ∧ m = .irqAtEnd) ∨ (mode = 3 ∧ m = .stopAtEnd) →
          (s.audio.playbackStatus = .paused → exec i s = .next (replyStatus .ok { s with
            audio.endFrame := f, audio.playMode := m
            audio.playbackStatus := .playing, audio.endOfTrackArmed := true
            hist := s.hist ++ asked ++ [.playerPause false] })) ∧
          (s.audio.playbackStatus ≠ .paused → f < s.audio.currentFrame →
            exec i s = .next { s with fault := some .negativeLength }) ∧
          (s.audio.playbackStatus ≠ .paused → s.audio.currentFrame ≤ f → exec i s = .next (replyStatus .ok { s with
            audio.endFrame := f, audio.playMode := m
            audio.playbackStatus := .playing, audio.endOfTrackArmed := true
            hist := s.hist ++ asked ++ [.playerStart s.audio.currentFrame (f - s.audio.currentFrame)] })))))

/-- PAUSE (R189): CHECK with no disc or no playback; else the player's position is taken and it is paused. R189 calls the position a draw;
that it is the schedule's next answer, or else a free value of the counter of draws, is the model's choice (log 9). -/
def Obligations.PauseCommand : Prop :=
  ∀ s : State,
    (s.config.disc = none ∨ s.audio.playbackStatus = .off → exec .pause s = .next (replyStatus .check s)) ∧
    (∀ f u, s.config.disc ≠ none → s.audio.playbackStatus ≠ .off → PlayerAnswers s f u →
      exec .pause s = .next (replyStatus .ok { u with
        audio.playbackStatus := .paused, audio.currentFrame := f, hist := u.hist ++ [.playerPause true] }))

/-- GET-SUBCHANNEL-Q (R190 to R192): with no disc, or a position in no track, it faults (log 2); else ten bytes and DataIn. That the
player's answer is the schedule's or a free value is the model's choice (log 9), and so is which Sector Source queries the lookup of the
track records (R84; log 15). -/
def Obligations.SubchannelReply : Prop :=
  ∀ s : State,
    (s.config.disc = none → exec .getSubchannelQ s = .next { s with fault := some .noDisc }) ∧
    (∀ d code f u, s.config.disc = some d →
      ((s.audio.playbackStatus = .playing ∧ code = 0x00#8 ∧ PlayerAnswers s f u) ∨
       (s.audio.playbackStatus = .paused ∧ code = 0x02#8 ∧ PlayerAnswers s f u) ∨
       (s.audio.playbackStatus = .off ∧ code = 0x03#8 ∧ f = s.audio.currentFrame ∧ u = s)) →
      (trackOf d f = none → exec .getSubchannelQ s = .next { s with fault := some .frameOutsideTracks }) ∧
      (∀ k t, trackOf d f = some (k, t) →
        let bytes := [code, 0x00, bcdEnc (k + 1), 0x01] ++ msf (f.toNat - t.start.toNat) ++ msf f.toNat
        exec .getSubchannelQ s = .next { u with
          bus.dataBuffer := bytes ++ s.bus.dataBuffer.drop 10
          bus.dataIndex := 0, bus.dataSize := 10, bus.dataTransferred := true, bus.io := true, bus.cd := false
          hist := u.hist ++ [.trackOf f k, .tableOfContents d.tracks] }))

/-- GET-DIR-INFO (R193 to R196), under its own row or its sub-function's: with no disc, a sub-function above 2 or a track past the last
it faults (log 2); else two to four bytes and DataIn. That the TOC lookup is recorded as one query is the model's choice (R84; log 15). -/
def Obligations.DirInfoReply : Prop :=
  ∀ (s : State) (sub track : Byte),
    (s.config.disc = none →
      exec (.getDirInfo sub track) s = .next { s with fault := some .noDisc } ∧
      exec .dirInfoTracks s = .next { s with fault := some .noDisc } ∧
      exec .dirInfoDiscSize s = .next { s with fault := some .noDisc } ∧
      exec (.dirInfoTrackStart track) s = .next { s with fault := some .noDisc }) ∧
    (∀ d, s.config.disc = some d →
      let reply (bytes : List Byte) : Host.Outcome State Fault Refusal := .next { s with
        bus.dataBuffer := bytes ++ s.bus.dataBuffer.drop bytes.length
        bus.dataIndex := 0, bus.dataSize := bytes.length, bus.dataTransferred := true, bus.io := true, bus.cd := false
        hist := s.hist ++ [.tableOfContents d.tracks] }
      (2 < sub.toNat → exec (.getDirInfo sub track) s = .next { s with fault := some .dirInfoSubFunction }) ∧
      (∀ i, i = .dirInfoTracks ∨ i = .getDirInfo 0 track →
        exec i s = reply [bcdEnc 1, bcdEnc d.tracks.length]) ∧
      (∀ i, i = .dirInfoDiscSize ∨ i = .getDirInfo 1 track → exec i s = reply (msf (discEnd d + 150))) ∧
      (∀ i, i = .dirInfoTrackStart track ∨ i = .getDirInfo 2 track →
        (track = 0xAA → exec i s = reply (msf (discEnd d + 150) ++ [0x04])) ∧
        (track ≠ 0xAA → ∀ t, d.tracks[max (bcdDec track) 1 - 1]? = some t →
          exec i s = reply (msf (t.start.toNat + 150) ++ [if t.kind = .audio then 0x00 else 0x04])) ∧
        (track ≠ 0xAA → d.tracks.length < max (bcdDec track) 1 →
          exec i s = .next { s with fault := some .trackOutOfRange })))

/-- The TOC lookup finds the track a frame lies in, which is the only one on a disc as R74 describes discs, and finds none only for a
frame in no track (R74). A read returns 2048 bytes that the image holds for the frame, or fails (R73). R73 says only that it fails with "no
readable data sector" at the frame, and R74 gives every frame of a data track its bytes. That a read succeeds only in a data track and
with 2048 bytes listed, fails in a data track with nothing listed, and takes the first of two entries listed for one frame, is the
model's reading of those two rules (log 14). -/
def Obligations.TrackLookup : Prop :=
  (∀ (d : Disc) (f : Frame) (k : Nat) (t : Track), trackOf d f = some (k, t) →
    d.tracks[k]? = some t ∧ t.start.toNat ≤ f.toNat ∧ f.toNat < t.start.toNat + t.frames.toNat) ∧
  (∀ (d : Disc) (f : Frame) (k : Nat) (t : Track), Disc.wf d = true → d.tracks[k]? = some t →
    t.start.toNat ≤ f.toNat → f.toNat < t.start.toNat + t.frames.toNat → trackOf d f = some (k, t)) ∧
  (∀ (d : Disc) (f : Frame), trackOf d f = none →
    ∀ t ∈ d.tracks, f.toNat < t.start.toNat ∨ t.start.toNat + t.frames.toNat ≤ f.toNat) ∧
  (∀ (d : Disc) (f : Frame) (bytes : List Byte), readSector (some d) f = some bytes →
    bytes.length = 2048 ∧ { frame := f, bytes := bytes } ∈ d.sectors ∧ ∃ k t, trackOf d f = some (k, t) ∧ t.kind = .data) ∧
  (∀ (d : Disc) (f : Frame) (k : Nat) (t : Track) (bytes : List Byte), Disc.wf d = true → trackOf d f = some (k, t) →
    t.kind = .data →
    (sectorAt f d.sectors = some bytes → readSector (some d) f = some bytes) ∧
    ({ frame := f, bytes := bytes } ∈ d.sectors → (∀ x ∈ d.sectors, x.frame = f → x.bytes = bytes) →
      readSector (some d) f = some bytes) ∧
    ((∀ x ∈ d.sectors, x.frame ≠ f) → readSector (some d) f = none)) ∧
  ∀ f : Frame, readSector none f = none

/-! ## Rules of the whole machine -/

/-- Every step keeps the invariant of the bus: at rest, no SEL and no ATN (R24, R154, R300), never REQ with ACK, BSY exactly while the
target is selected (R158), neither MessageOut nor DataOut (R146, R153), the buffers in their bounds (R27, R28). -/
def Obligations.StepKeepsBusInv : Prop :=
  (∀ s t : State, BusInv s → step s = .next t → BusInv t) ∧
  ∀ (s : State) (f : Fault), BusInv s → step s = .fault f → BusInv (stateAfter s)

/-- Every step keeps the invariant of the ADPCM engine: RAM in its canonical form, the holdoffs in their ranges (R38), the play address
inside RAM (R39, R241), the divider as register 0xE gives it (R43, R243). -/
def Obligations.StepKeepsAdpcmInv : Prop :=
  (∀ s t : State, AdpcmInv s → step s = .next t → AdpcmInv t) ∧
  ∀ (s : State) (f : Fault), AdpcmInv s → step s = .fault f → AdpcmInv (stateAfter s)

/-- Every step keeps the volumes multiples of 10 from 0 to 100 and at most one timer of a channel armed (R278, R280). -/
def Obligations.StepKeepsFadesInv : Prop :=
  (∀ s t : State, FadesInv s → step s = .next t → FadesInv t) ∧
  ∀ (s : State) (f : Fault), FadesInv s → step s = .fault f → FadesInv (stateAfter s)

/-- Every step keeps the invariant of the audio transport, under a START_MODE table that arms the poll only with an end action (R31,
R202, R353). -/
def Obligations.StepKeepsAudioInv : Prop :=
  (∀ s t : State, StartModeTable.armsWithAction s.config.startMode → AudioInv s → step s = .next t → AudioInv t) ∧
  ∀ (s : State) (f : Fault), AudioInv s → step s = .fault f → AudioInv (stateAfter s)

/-- The pump always reaches a fixed point within four passes, the last of them changing nothing, and a second pump changes nothing
(R140, R157). -/
def Obligations.PumpReachesRest : Prop :=
  (∀ s : State, pumpUpTo 4 s ≠ .error .pumpDiverged ∧ pump s ≠ .error .pumpDiverged) ∧
  (∀ s t : State, pump s = .ok t → AtRest t ∧ pump t = .ok t) ∧
  (∀ s : State, BusInv s → step s ≠ .fault .dataOut ∧ step s ≠ .fault .pumpDiverged)

/-- Only a write of register 0xA and a DMA tick store to ADPCM RAM, and each to the byte at `writePointer` alone (R230, R234, R232). -/
def Obligations.OnlyPortAndDmaStore : Prop :=
  ∀ (i : Instr) (s t : State), exec i s = .next t →
    ((∀ v, i ≠ .wr0xA v) → i ≠ .evTickDma → ∀ a, memRead t a = memRead s a) ∧
    ∀ a, a ≠ s.adpcm.writePointer.toNat → memRead t a = memRead s a

/-- Only a host write changes the register file, and only its own register; only register 0x7 and a read of 0x3 change the BRAM lock;
only register 0xF and the fade ticks change fade state, so that a reset leaves it alone (R316, R303, R305, R280, R413). -/
def Obligations.RegisterLockAndFadeFrame : Prop :=
  ∀ (i : Instr) (s t : State), exec i s = .next t →
    (∀ r, storedRegister i ≠ some r → t.getReg r = s.getReg r) ∧
    ((∀ v, i ≠ .wr0x7 v) → i ≠ .rd0x3 → t.bramLocked = s.bramLocked) ∧
    (touchesFades i = false → t.fadeCd = s.fadeCd ∧ t.fadeAd = s.fadeAd) ∧
    t.hpc = s.hpc ∧ t.program = s.program ∧ t.config = s.config ∧ t.audio.lastFrame = s.audio.lastFrame

/-- A run of writes to the RAM data port with no holdoff stores every byte in turn, and wraps at 65536: the pointer ends as far on as
bytes were written, the last 65536 bytes stand where they were written, and a byte no write reached is unchanged (R234; R235 is the
case of 65636 bytes from pointer 0, an inference the spec marks as its own). -/
def Obligations.PortWritesWrapAround : Prop :=
  ∀ (s : State) (bytes : List Byte), AtRest s → s.adpcm.writeHoldoff = 0 →
    ∃ t, runAll (bytes.map Instr.wr0xA) s = some t ∧
      t.adpcm.writePointer = s.adpcm.writePointer + BitVec.ofNat 16 bytes.length ∧
      (∀ k b, bytes[k]? = some b → bytes.length ≤ k + 65536 →
        memRead t ((s.adpcm.writePointer.toNat + k) % 65536) = b) ∧
      (∀ a, (∀ k, k < bytes.length → a ≠ (s.adpcm.writePointer.toNat + k) % 65536) → memRead t a = memRead s a)

/-- On either channel a fade takes exactly ten ticks, 10 at a time, to its bound, which stops its timer, and no eleventh tick exists
(R279, an inference the spec marks as its own, from R276 and R277). -/
def Obligations.FadeTakesTenTicks : Prop :=
  (∀ (s : State) (p : FadePeriod) (n : Nat), AtRest s → s.fadeCd.volume = 0 → s.fadeCd.fadeIn = .armed p → n ≤ 10 →
    ∃ t, runAll (List.replicate n .evFadeCdIn) s = some t ∧
      t.fadeCd = { s.fadeCd with volume := 10 * n, fadeIn := if n = 10 then .off else .armed p } ∧
      (n = 10 → exec .evFadeCdIn t = .refused (.notEnabled .fadeCdIn))) ∧
  (∀ (s : State) (p : FadePeriod) (n : Nat), AtRest s → s.fadeCd.volume = 100 → s.fadeCd.fadeOut = .armed p → n ≤ 10 →
    ∃ t, runAll (List.replicate n .evFadeCdOut) s = some t ∧
      t.fadeCd = { s.fadeCd with volume := 100 - 10 * n, fadeOut := if n = 10 then .off else .armed p } ∧
      (n = 10 → exec .evFadeCdOut t = .refused (.notEnabled .fadeCdOut))) ∧
  (∀ (s : State) (p : FadePeriod) (n : Nat), AtRest s → s.fadeAd.volume = 0 → s.fadeAd.fadeIn = .armed p → n ≤ 10 →
    ∃ t, runAll (List.replicate n .evFadeAdIn) s = some t ∧
      t.fadeAd = { s.fadeAd with volume := 10 * n, fadeIn := if n = 10 then .off else .armed p } ∧
      (n = 10 → exec .evFadeAdIn t = .refused (.notEnabled .fadeAdIn))) ∧
  (∀ (s : State) (p : FadePeriod) (n : Nat), AtRest s → s.fadeAd.volume = 100 → s.fadeAd.fadeOut = .armed p → n ≤ 10 →
    ∃ t, runAll (List.replicate n .evFadeAdOut) s = some t ∧
      t.fadeAd = { s.fadeAd with volume := 100 - 10 * n, fadeOut := if n = 10 then .off else .armed p } ∧
      (n = 10 → exec .evFadeAdOut t = .refused (.notEnabled .fadeAdOut)))
end

