-- ==== Sys2Proof/Laws/State.lean ====
section
/-! SUPPORT. One lemma per field for each named update of State, true by rfl, so that no later proof unfolds a record update. -/

namespace Sys2Proof.Machine

section
variable (s : State)

/-! ### State.push -/

@[simp] theorem push_bus (e : Event) : (s.push e).bus = s.bus := rfl
@[simp] theorem push_audio (e : Event) : (s.push e).audio = s.audio := rfl
@[simp] theorem push_adpcm (e : Event) : (s.push e).adpcm = s.adpcm := rfl
@[simp] theorem push_reg (e : Event) : (s.push e).reg = s.reg := rfl
@[simp] theorem push_bramLocked (e : Event) : (s.push e).bramLocked = s.bramLocked := rfl
@[simp] theorem push_fadeCd (e : Event) : (s.push e).fadeCd = s.fadeCd := rfl
@[simp] theorem push_fadeAd (e : Event) : (s.push e).fadeAd = s.fadeAd := rfl
@[simp] theorem push_fault (e : Event) : (s.push e).fault = s.fault := rfl
@[simp] theorem push_hpc (e : Event) : (s.push e).hpc = s.hpc := rfl
@[simp] theorem push_program (e : Event) : (s.push e).program = s.program := rfl
@[simp] theorem push_answers (e : Event) : (s.push e).answers = s.answers := rfl
@[simp] theorem push_config (e : Event) : (s.push e).config = s.config := rfl
@[simp] theorem push_draws (e : Event) : (s.push e).draws = s.draws := rfl
@[simp] theorem push_hist (e : Event) : (s.push e).hist = s.hist ++ [e] := rfl

/-! ### State.record -/

@[simp] theorem record_bus (es : List Event) : (s.record es).bus = s.bus := rfl
@[simp] theorem record_audio (es : List Event) : (s.record es).audio = s.audio := rfl
@[simp] theorem record_adpcm (es : List Event) : (s.record es).adpcm = s.adpcm := rfl
@[simp] theorem record_reg (es : List Event) : (s.record es).reg = s.reg := rfl
@[simp] theorem record_bramLocked (es : List Event) : (s.record es).bramLocked = s.bramLocked := rfl
@[simp] theorem record_fadeCd (es : List Event) : (s.record es).fadeCd = s.fadeCd := rfl
@[simp] theorem record_fadeAd (es : List Event) : (s.record es).fadeAd = s.fadeAd := rfl
@[simp] theorem record_fault (es : List Event) : (s.record es).fault = s.fault := rfl
@[simp] theorem record_hpc (es : List Event) : (s.record es).hpc = s.hpc := rfl
@[simp] theorem record_program (es : List Event) : (s.record es).program = s.program := rfl
@[simp] theorem record_answers (es : List Event) : (s.record es).answers = s.answers := rfl
@[simp] theorem record_config (es : List Event) : (s.record es).config = s.config := rfl
@[simp] theorem record_draws (es : List Event) : (s.record es).draws = s.draws := rfl
@[simp] theorem record_hist (es : List Event) : (s.record es).hist = s.hist ++ es := rfl

/-! ### askToc -/

@[simp] theorem askToc_bus (d : Disc) : (askToc d s).bus = s.bus := rfl
@[simp] theorem askToc_audio (d : Disc) : (askToc d s).audio = s.audio := rfl
@[simp] theorem askToc_adpcm (d : Disc) : (askToc d s).adpcm = s.adpcm := rfl
@[simp] theorem askToc_reg (d : Disc) : (askToc d s).reg = s.reg := rfl
@[simp] theorem askToc_bramLocked (d : Disc) : (askToc d s).bramLocked = s.bramLocked := rfl
@[simp] theorem askToc_fadeCd (d : Disc) : (askToc d s).fadeCd = s.fadeCd := rfl
@[simp] theorem askToc_fadeAd (d : Disc) : (askToc d s).fadeAd = s.fadeAd := rfl
@[simp] theorem askToc_fault (d : Disc) : (askToc d s).fault = s.fault := rfl
@[simp] theorem askToc_hpc (d : Disc) : (askToc d s).hpc = s.hpc := rfl
@[simp] theorem askToc_program (d : Disc) : (askToc d s).program = s.program := rfl
@[simp] theorem askToc_answers (d : Disc) : (askToc d s).answers = s.answers := rfl
@[simp] theorem askToc_config (d : Disc) : (askToc d s).config = s.config := rfl
@[simp] theorem askToc_draws (d : Disc) : (askToc d s).draws = s.draws := rfl
@[simp] theorem askToc_hist (d : Disc) : (askToc d s).hist = s.hist ++ [.tableOfContents d.tracks] := rfl

/-! ### State.drew -/

@[simp] theorem drew_bus (n : Nat) : (s.drew n).bus = s.bus := rfl
@[simp] theorem drew_audio (n : Nat) : (s.drew n).audio = s.audio := rfl
@[simp] theorem drew_adpcm (n : Nat) : (s.drew n).adpcm = s.adpcm := rfl
@[simp] theorem drew_reg (n : Nat) : (s.drew n).reg = s.reg := rfl
@[simp] theorem drew_bramLocked (n : Nat) : (s.drew n).bramLocked = s.bramLocked := rfl
@[simp] theorem drew_fadeCd (n : Nat) : (s.drew n).fadeCd = s.fadeCd := rfl
@[simp] theorem drew_fadeAd (n : Nat) : (s.drew n).fadeAd = s.fadeAd := rfl
@[simp] theorem drew_fault (n : Nat) : (s.drew n).fault = s.fault := rfl
@[simp] theorem drew_hist (n : Nat) : (s.drew n).hist = s.hist := rfl
@[simp] theorem drew_hpc (n : Nat) : (s.drew n).hpc = s.hpc := rfl
@[simp] theorem drew_program (n : Nat) : (s.drew n).program = s.program := rfl
@[simp] theorem drew_answers (n : Nat) : (s.drew n).answers = s.answers := rfl
@[simp] theorem drew_config (n : Nat) : (s.drew n).config = s.config := rfl
@[simp] theorem drew_draws (n : Nat) : (s.drew n).draws = s.draws + n := rfl

/-! ### State.setReg -/

@[simp] theorem setReg_bus (r : RegIndex) (v : Byte) : (s.setReg r v).bus = s.bus := rfl
@[simp] theorem setReg_audio (r : RegIndex) (v : Byte) : (s.setReg r v).audio = s.audio := rfl
@[simp] theorem setReg_adpcm (r : RegIndex) (v : Byte) : (s.setReg r v).adpcm = s.adpcm := rfl
@[simp] theorem setReg_bramLocked (r : RegIndex) (v : Byte) : (s.setReg r v).bramLocked = s.bramLocked := rfl
@[simp] theorem setReg_fadeCd (r : RegIndex) (v : Byte) : (s.setReg r v).fadeCd = s.fadeCd := rfl
@[simp] theorem setReg_fadeAd (r : RegIndex) (v : Byte) : (s.setReg r v).fadeAd = s.fadeAd := rfl
@[simp] theorem setReg_fault (r : RegIndex) (v : Byte) : (s.setReg r v).fault = s.fault := rfl
@[simp] theorem setReg_hist (r : RegIndex) (v : Byte) : (s.setReg r v).hist = s.hist := rfl
@[simp] theorem setReg_hpc (r : RegIndex) (v : Byte) : (s.setReg r v).hpc = s.hpc := rfl
@[simp] theorem setReg_program (r : RegIndex) (v : Byte) : (s.setReg r v).program = s.program := rfl
@[simp] theorem setReg_answers (r : RegIndex) (v : Byte) : (s.setReg r v).answers = s.answers := rfl
@[simp] theorem setReg_config (r : RegIndex) (v : Byte) : (s.setReg r v).config = s.config := rfl
@[simp] theorem setReg_draws (r : RegIndex) (v : Byte) : (s.setReg r v).draws = s.draws := rfl
@[simp] theorem setReg_reg (r : RegIndex) (v : Byte) : (s.setReg r v).reg = s.reg.set r v := rfl

/-! ### takeFault -/

@[simp] theorem takeFault_bus (f : Fault) : (takeFault s f).bus = s.bus := rfl
@[simp] theorem takeFault_audio (f : Fault) : (takeFault s f).audio = s.audio := rfl
@[simp] theorem takeFault_adpcm (f : Fault) : (takeFault s f).adpcm = s.adpcm := rfl
@[simp] theorem takeFault_reg (f : Fault) : (takeFault s f).reg = s.reg := rfl
@[simp] theorem takeFault_bramLocked (f : Fault) : (takeFault s f).bramLocked = s.bramLocked := rfl
@[simp] theorem takeFault_fadeCd (f : Fault) : (takeFault s f).fadeCd = s.fadeCd := rfl
@[simp] theorem takeFault_fadeAd (f : Fault) : (takeFault s f).fadeAd = s.fadeAd := rfl
@[simp] theorem takeFault_hist (f : Fault) : (takeFault s f).hist = s.hist := rfl
@[simp] theorem takeFault_hpc (f : Fault) : (takeFault s f).hpc = s.hpc := rfl
@[simp] theorem takeFault_program (f : Fault) : (takeFault s f).program = s.program := rfl
@[simp] theorem takeFault_answers (f : Fault) : (takeFault s f).answers = s.answers := rfl
@[simp] theorem takeFault_config (f : Fault) : (takeFault s f).config = s.config := rfl
@[simp] theorem takeFault_draws (f : Fault) : (takeFault s f).draws = s.draws := rfl
@[simp] theorem takeFault_fault (f : Fault) : (takeFault s f).fault = some f := rfl

/-! ### recordRead -/

@[simp] theorem recordRead_bus (r : RegIndex) (v : Byte) : (recordRead r v s).bus = s.bus := rfl
@[simp] theorem recordRead_audio (r : RegIndex) (v : Byte) : (recordRead r v s).audio = s.audio := rfl
@[simp] theorem recordRead_adpcm (r : RegIndex) (v : Byte) : (recordRead r v s).adpcm = s.adpcm := rfl
@[simp] theorem recordRead_reg (r : RegIndex) (v : Byte) : (recordRead r v s).reg = s.reg := rfl
@[simp] theorem recordRead_bramLocked (r : RegIndex) (v : Byte) : (recordRead r v s).bramLocked = s.bramLocked := rfl
@[simp] theorem recordRead_fadeCd (r : RegIndex) (v : Byte) : (recordRead r v s).fadeCd = s.fadeCd := rfl
@[simp] theorem recordRead_fadeAd (r : RegIndex) (v : Byte) : (recordRead r v s).fadeAd = s.fadeAd := rfl
@[simp] theorem recordRead_fault (r : RegIndex) (v : Byte) : (recordRead r v s).fault = s.fault := rfl
@[simp] theorem recordRead_hpc (r : RegIndex) (v : Byte) : (recordRead r v s).hpc = s.hpc := rfl
@[simp] theorem recordRead_program (r : RegIndex) (v : Byte) : (recordRead r v s).program = s.program := rfl
@[simp] theorem recordRead_answers (r : RegIndex) (v : Byte) : (recordRead r v s).answers = s.answers := rfl
@[simp] theorem recordRead_config (r : RegIndex) (v : Byte) : (recordRead r v s).config = s.config := rfl
@[simp] theorem recordRead_draws (r : RegIndex) (v : Byte) : (recordRead r v s).draws = s.draws := rfl
@[simp] theorem recordRead_hist (r : RegIndex) (v : Byte) : (recordRead r v s).hist = s.hist ++ [.read r v] := rfl

/-! ### memWrite -/

@[simp] theorem memWrite_bus (a : Addr) (v : Byte) : (memWrite s a v).bus = s.bus := rfl
@[simp] theorem memWrite_audio (a : Addr) (v : Byte) : (memWrite s a v).audio = s.audio := rfl
@[simp] theorem memWrite_reg (a : Addr) (v : Byte) : (memWrite s a v).reg = s.reg := rfl
@[simp] theorem memWrite_bramLocked (a : Addr) (v : Byte) : (memWrite s a v).bramLocked = s.bramLocked := rfl
@[simp] theorem memWrite_fadeCd (a : Addr) (v : Byte) : (memWrite s a v).fadeCd = s.fadeCd := rfl
@[simp] theorem memWrite_fadeAd (a : Addr) (v : Byte) : (memWrite s a v).fadeAd = s.fadeAd := rfl
@[simp] theorem memWrite_fault (a : Addr) (v : Byte) : (memWrite s a v).fault = s.fault := rfl
@[simp] theorem memWrite_hist (a : Addr) (v : Byte) : (memWrite s a v).hist = s.hist := rfl
@[simp] theorem memWrite_hpc (a : Addr) (v : Byte) : (memWrite s a v).hpc = s.hpc := rfl
@[simp] theorem memWrite_program (a : Addr) (v : Byte) : (memWrite s a v).program = s.program := rfl
@[simp] theorem memWrite_answers (a : Addr) (v : Byte) : (memWrite s a v).answers = s.answers := rfl
@[simp] theorem memWrite_config (a : Addr) (v : Byte) : (memWrite s a v).config = s.config := rfl
@[simp] theorem memWrite_draws (a : Addr) (v : Byte) : (memWrite s a v).draws = s.draws := rfl

@[simp] theorem memWrite_ram (a : Addr) (v : Byte) : (memWrite s a v).adpcm.ram = writeCell s.adpcm.ram a.toNat v := rfl
@[simp] theorem memWrite_adpcm_readPointer (a : Addr) (v : Byte) : (memWrite s a v).adpcm.readPointer = s.adpcm.readPointer := rfl
@[simp] theorem memWrite_adpcm_writePointer (a : Addr) (v : Byte) : (memWrite s a v).adpcm.writePointer = s.adpcm.writePointer := rfl
@[simp] theorem memWrite_adpcm_readHoldoff (a : Addr) (v : Byte) : (memWrite s a v).adpcm.readHoldoff = s.adpcm.readHoldoff := rfl
@[simp] theorem memWrite_adpcm_writeHoldoff (a : Addr) (v : Byte) : (memWrite s a v).adpcm.writeHoldoff = s.adpcm.writeHoldoff := rfl
@[simp] theorem memWrite_adpcm_playStartAddress (a : Addr) (v : Byte) : (memWrite s a v).adpcm.playStartAddress = s.adpcm.playStartAddress := rfl
@[simp] theorem memWrite_adpcm_playEndAddress (a : Addr) (v : Byte) : (memWrite s a v).adpcm.playEndAddress = s.adpcm.playEndAddress := rfl
@[simp] theorem memWrite_adpcm_playHalfAddress (a : Addr) (v : Byte) : (memWrite s a v).adpcm.playHalfAddress = s.adpcm.playHalfAddress := rfl
@[simp] theorem memWrite_adpcm_nibbleSelector (a : Addr) (v : Byte) : (memWrite s a v).adpcm.nibbleSelector = s.adpcm.nibbleSelector := rfl
@[simp] theorem memWrite_adpcm_playing (a : Addr) (v : Byte) : (memWrite s a v).adpcm.playing = s.adpcm.playing := rfl
@[simp] theorem memWrite_adpcm_lengthRegister (a : Addr) (v : Byte) : (memWrite s a v).adpcm.lengthRegister = s.adpcm.lengthRegister := rfl
@[simp] theorem memWrite_adpcm_dmaTimerArmed (a : Addr) (v : Byte) : (memWrite s a v).adpcm.dmaTimerArmed = s.adpcm.dmaTimerArmed := rfl
@[simp] theorem memWrite_adpcm_dmaBusy (a : Addr) (v : Byte) : (memWrite s a v).adpcm.dmaBusy = s.adpcm.dmaBusy := rfl
@[simp] theorem memWrite_adpcm_clockDivider (a : Addr) (v : Byte) : (memWrite s a v).adpcm.clockDivider = s.adpcm.clockDivider := rfl

/-! ### replyStatus -/

@[simp] theorem replyStatus_audio (c : Status) : (replyStatus c s).audio = s.audio := rfl
@[simp] theorem replyStatus_adpcm (c : Status) : (replyStatus c s).adpcm = s.adpcm := rfl
@[simp] theorem replyStatus_reg (c : Status) : (replyStatus c s).reg = s.reg := rfl
@[simp] theorem replyStatus_bramLocked (c : Status) : (replyStatus c s).bramLocked = s.bramLocked := rfl
@[simp] theorem replyStatus_fadeCd (c : Status) : (replyStatus c s).fadeCd = s.fadeCd := rfl
@[simp] theorem replyStatus_fadeAd (c : Status) : (replyStatus c s).fadeAd = s.fadeAd := rfl
@[simp] theorem replyStatus_fault (c : Status) : (replyStatus c s).fault = s.fault := rfl
@[simp] theorem replyStatus_hist (c : Status) : (replyStatus c s).hist = s.hist := rfl
@[simp] theorem replyStatus_hpc (c : Status) : (replyStatus c s).hpc = s.hpc := rfl
@[simp] theorem replyStatus_program (c : Status) : (replyStatus c s).program = s.program := rfl
@[simp] theorem replyStatus_answers (c : Status) : (replyStatus c s).answers = s.answers := rfl
@[simp] theorem replyStatus_config (c : Status) : (replyStatus c s).config = s.config := rfl
@[simp] theorem replyStatus_draws (c : Status) : (replyStatus c s).draws = s.draws := rfl

@[simp] theorem replyStatus_bus_bsy (c : Status) : (replyStatus c s).bus.bsy = s.bus.bsy := rfl
@[simp] theorem replyStatus_bus_sel (c : Status) : (replyStatus c s).bus.sel = s.bus.sel := rfl
@[simp] theorem replyStatus_bus_cd (c : Status) : (replyStatus c s).bus.cd = true := rfl
@[simp] theorem replyStatus_bus_io (c : Status) : (replyStatus c s).bus.io = true := rfl
@[simp] theorem replyStatus_bus_msg (c : Status) : (replyStatus c s).bus.msg = false := rfl
@[simp] theorem replyStatus_bus_req (c : Status) : (replyStatus c s).bus.req = true := rfl
@[simp] theorem replyStatus_bus_ack (c : Status) : (replyStatus c s).bus.ack = s.bus.ack := rfl
@[simp] theorem replyStatus_bus_atn (c : Status) : (replyStatus c s).bus.atn = s.bus.atn := rfl
@[simp] theorem replyStatus_bus_rst (c : Status) : (replyStatus c s).bus.rst = s.bus.rst := rfl
@[simp] theorem replyStatus_bus_selected (c : Status) : (replyStatus c s).bus.selected = s.bus.selected := rfl
@[simp] theorem replyStatus_bus_lastRst (c : Status) : (replyStatus c s).bus.lastRst = s.bus.lastRst := rfl
@[simp] theorem replyStatus_bus_dataReg (c : Status) : (replyStatus c s).bus.dataReg = statusByte c := rfl
@[simp] theorem replyStatus_bus_commandBuffer (c : Status) : (replyStatus c s).bus.commandBuffer = s.bus.commandBuffer := rfl
@[simp] theorem replyStatus_bus_dataBuffer (c : Status) : (replyStatus c s).bus.dataBuffer = s.bus.dataBuffer := rfl
@[simp] theorem replyStatus_bus_dataIndex (c : Status) : (replyStatus c s).bus.dataIndex = s.bus.dataIndex := rfl
@[simp] theorem replyStatus_bus_dataSize (c : Status) : (replyStatus c s).bus.dataSize = s.bus.dataSize := rfl
@[simp] theorem replyStatus_bus_messageAfterStatus (c : Status) : (replyStatus c s).bus.messageAfterStatus = true := rfl
@[simp] theorem replyStatus_bus_statusSent (c : Status) : (replyStatus c s).bus.statusSent = false := rfl
@[simp] theorem replyStatus_bus_messageSent (c : Status) : (replyStatus c s).bus.messageSent = false := rfl
@[simp] theorem replyStatus_bus_dataTransferred (c : Status) : (replyStatus c s).bus.dataTransferred = s.bus.dataTransferred := rfl
@[simp] theorem replyStatus_bus_irqStatus (c : Status) : (replyStatus c s).bus.irqStatus = s.bus.irqStatus := rfl

/-! ### replyData -/

@[simp] theorem replyData_audio (bytes : List Byte) : (replyData bytes s).audio = s.audio := rfl
@[simp] theorem replyData_adpcm (bytes : List Byte) : (replyData bytes s).adpcm = s.adpcm := rfl
@[simp] theorem replyData_reg (bytes : List Byte) : (replyData bytes s).reg = s.reg := rfl
@[simp] theorem replyData_bramLocked (bytes : List Byte) : (replyData bytes s).bramLocked = s.bramLocked := rfl
@[simp] theorem replyData_fadeCd (bytes : List Byte) : (replyData bytes s).fadeCd = s.fadeCd := rfl
@[simp] theorem replyData_fadeAd (bytes : List Byte) : (replyData bytes s).fadeAd = s.fadeAd := rfl
@[simp] theorem replyData_fault (bytes : List Byte) : (replyData bytes s).fault = s.fault := rfl
@[simp] theorem replyData_hist (bytes : List Byte) : (replyData bytes s).hist = s.hist := rfl
@[simp] theorem replyData_hpc (bytes : List Byte) : (replyData bytes s).hpc = s.hpc := rfl
@[simp] theorem replyData_program (bytes : List Byte) : (replyData bytes s).program = s.program := rfl
@[simp] theorem replyData_answers (bytes : List Byte) : (replyData bytes s).answers = s.answers := rfl
@[simp] theorem replyData_config (bytes : List Byte) : (replyData bytes s).config = s.config := rfl
@[simp] theorem replyData_draws (bytes : List Byte) : (replyData bytes s).draws = s.draws := rfl

@[simp] theorem replyData_bus_bsy (bytes : List Byte) : (replyData bytes s).bus.bsy = s.bus.bsy := rfl
@[simp] theorem replyData_bus_sel (bytes : List Byte) : (replyData bytes s).bus.sel = s.bus.sel := rfl
@[simp] theorem replyData_bus_cd (bytes : List Byte) : (replyData bytes s).bus.cd = false := rfl
@[simp] theorem replyData_bus_io (bytes : List Byte) : (replyData bytes s).bus.io = true := rfl
@[simp] theorem replyData_bus_msg (bytes : List Byte) : (replyData bytes s).bus.msg = s.bus.msg := rfl
@[simp] theorem replyData_bus_req (bytes : List Byte) : (replyData bytes s).bus.req = s.bus.req := rfl
@[simp] theorem replyData_bus_ack (bytes : List Byte) : (replyData bytes s).bus.ack = s.bus.ack := rfl
@[simp] theorem replyData_bus_atn (bytes : List Byte) : (replyData bytes s).bus.atn = s.bus.atn := rfl
@[simp] theorem replyData_bus_rst (bytes : List Byte) : (replyData bytes s).bus.rst = s.bus.rst := rfl
@[simp] theorem replyData_bus_selected (bytes : List Byte) : (replyData bytes s).bus.selected = s.bus.selected := rfl
@[simp] theorem replyData_bus_lastRst (bytes : List Byte) : (replyData bytes s).bus.lastRst = s.bus.lastRst := rfl
@[simp] theorem replyData_bus_dataReg (bytes : List Byte) : (replyData bytes s).bus.dataReg = s.bus.dataReg := rfl
@[simp] theorem replyData_bus_commandBuffer (bytes : List Byte) : (replyData bytes s).bus.commandBuffer = s.bus.commandBuffer := rfl
@[simp] theorem replyData_bus_dataBuffer (bytes : List Byte) : (replyData bytes s).bus.dataBuffer = overwrite s.bus.dataBuffer bytes := rfl
@[simp] theorem replyData_bus_dataIndex (bytes : List Byte) : (replyData bytes s).bus.dataIndex = 0 := rfl
@[simp] theorem replyData_bus_dataSize (bytes : List Byte) : (replyData bytes s).bus.dataSize = bytes.length := rfl
@[simp] theorem replyData_bus_messageAfterStatus (bytes : List Byte) : (replyData bytes s).bus.messageAfterStatus = s.bus.messageAfterStatus := rfl
@[simp] theorem replyData_bus_statusSent (bytes : List Byte) : (replyData bytes s).bus.statusSent = s.bus.statusSent := rfl
@[simp] theorem replyData_bus_messageSent (bytes : List Byte) : (replyData bytes s).bus.messageSent = s.bus.messageSent := rfl
@[simp] theorem replyData_bus_dataTransferred (bytes : List Byte) : (replyData bytes s).bus.dataTransferred = true := rfl
@[simp] theorem replyData_bus_irqStatus (bytes : List Byte) : (replyData bytes s).bus.irqStatus = s.bus.irqStatus := rfl

end

/-! ### The register file -/

theorem getReg_setReg (s : State) (r q : RegIndex) (v : Byte) :
    (s.setReg r v).getReg q = if q = r then v else s.getReg q := by
  simp only [State.getReg, State.setReg, Fin.getElem_fin, Vector.getElem_set]
  by_cases h : q = r
  · simp [h]
  · have h' : r.val ≠ q.val := fun e => h (Fin.ext e.symm)
    simp [h, h']

@[simp] theorem getReg_setReg_same (s : State) (r : RegIndex) (v : Byte) : (s.setReg r v).getReg r = v := by
  simp [getReg_setReg]

theorem getReg_setReg_other (s : State) {r q : RegIndex} (v : Byte) (h : q ≠ r) :
    (s.setReg r v).getReg q = s.getReg q := by
  simp [getReg_setReg, h]

/-- Two states with one register file read the same. -/
theorem getReg_congr {s t : State} (h : t.reg = s.reg) (r : RegIndex) : t.getReg r = s.getReg r := by
  simp only [State.getReg, h]

end Sys2Proof.Machine
end

