-- ==== Sys2Proof/Laws/Memory.lean ====
section
/-! SUPPORT. ADPCM RAM as a list of cells (20_memory.md R72): a read after a write, and the canonical form every write keeps. -/

namespace Sys2Proof.Machine

/-- A read of the address just written gives the byte written. -/
theorem readCell_writeCell_same (m : List Host.Cell) (a : Nat) (v : Byte) : readCell (writeCell m a v) a = some v := by
  induction m with
  | nil => simp [writeCell, readCell]
  | cons c rest ih =>
    obtain ⟨b, w⟩ := c
    simp only [writeCell]
    split
    · simp [readCell]
    · split
      · simp [readCell]
      · rename_i hne hlt
        simp [readCell, hne, hlt, ih]

/-- A write leaves the bytes at other addresses alone. -/
theorem readCell_writeCell_other (m : List Host.Cell) {a b : Nat} (v : Byte) (h : b ≠ a) :
    readCell (writeCell m a v) b = readCell m b := by
  induction m with
  | nil =>
    simp only [writeCell, readCell, h, if_false]
    split <;> rfl
  | cons c rest ih =>
    obtain ⟨x, w⟩ := c
    simp only [writeCell]
    split
    · subst x
      simp only [readCell, h, if_false]
    · split
      · rename_i hne hlt
        simp only [readCell, h, if_false]
        split
        · rename_i hba
          have h1 : b ≠ x := by omega
          have h2 : b < x := by omega
          simp [h1, h2]
        · rfl
      · simp only [readCell, ih]

theorem risingFrom_weaken {low high : Nat} (hl : low ≤ high) {m : List Host.Cell} (h : risingFrom high m = true) :
    risingFrom low m = true := by
  cases m with
  | nil => rfl
  | cons c rest =>
    obtain ⟨a, v⟩ := c
    simp only [risingFrom, Bool.and_eq_true, decide_eq_true_eq] at h ⊢
    exact ⟨by omega, h.2⟩

/-- A write keeps the addresses strictly rising. -/
theorem risingFrom_writeCell (m : List Host.Cell) (a : Nat) (v : Byte) :
    ∀ low, low ≤ a → risingFrom low m = true → risingFrom low (writeCell m a v) = true := by
  induction m with
  | nil => intro low hl _; simp [writeCell, risingFrom, hl]
  | cons c rest ih =>
    obtain ⟨b, w⟩ := c
    intro low hl h
    simp only [risingFrom, Bool.and_eq_true, decide_eq_true_eq] at h
    simp only [writeCell]
    split
    · rename_i hab
      subst b
      simp [risingFrom, hl, h.2]
    · split
      · rename_i hne hlt
        have : a + 1 ≤ b := hlt
        simp [risingFrom, hl, h.2, this]
      · rename_i hne hlt
        have : b + 1 ≤ a := by omega
        simp [risingFrom, h.1, ih (b + 1) this h.2]

/-- A write inside the bound keeps every address inside it. -/
theorem cellsBelow_writeCell {high : Nat} (m : List Host.Cell) {a : Nat} (v : Byte) (ha : a < high)
    (h : cellsBelow high m = true) : cellsBelow high (writeCell m a v) = true := by
  induction m with
  | nil => simp [writeCell, cellsBelow, ha]
  | cons c rest ih =>
    obtain ⟨b, w⟩ := c
    simp only [cellsBelow, List.all_cons, Bool.and_eq_true, decide_eq_true_eq] at h
    simp only [writeCell]
    split
    · simpa [cellsBelow, ha] using h.2
    · split
      · simpa [cellsBelow, ha, h.1] using h.2
      · have := ih h.2
        simp only [cellsBelow, List.all_cons, Bool.and_eq_true, decide_eq_true_eq]
        exact ⟨h.1, this⟩

/-- Every write keeps the canonical form of ADPCM RAM. -/
theorem memoryWf_writeCell {m : List Host.Cell} (h : memoryWf m = true) (a : Addr) (v : Byte) :
    memoryWf (writeCell m a.toNat v) = true := by
  simp only [memoryWf, Bool.and_eq_true] at h ⊢
  exact ⟨risingFrom_writeCell m _ v 0 (Nat.zero_le _) h.1, cellsBelow_writeCell m v a.isLt h.2⟩

/-- `MemWrite` keeps the canonical form. -/
theorem memoryWf_memWrite {s : State} (h : memoryWf s.adpcm.ram = true) (a : Addr) (v : Byte) :
    memoryWf (memWrite s a v).adpcm.ram = true := memoryWf_writeCell h a v

/-- Power-on RAM is in canonical form. -/
theorem memoryWf_powerOn (config : Config) (program : List HostWord) (answers : List Frame) :
    memoryWf (State.powerOn config program answers).adpcm.ram = true := rfl

/-- `MemRead` after `MemWrite`, at every address. -/
theorem memRead_memWrite (s : State) (a : Addr) (v : Byte) (b : Nat) :
    memRead (memWrite s a v) b = if b = a.toNat then v else memRead s b := by
  simp only [memRead, memWrite_ram]
  split
  · rename_i h; subst h; simp [readCell_writeCell_same]
  · rename_i h; rw [readCell_writeCell_other _ v h]

/-- Two states with one RAM read the same. -/
theorem memRead_congr {s t : State} (h : t.adpcm.ram = s.adpcm.ram) (a : Nat) : memRead t a = memRead s a := by
  simp only [memRead, h]

/-- `storeAtWritePointer` in its parts. -/
theorem memRead_storeAtWritePointer (v : Byte) (s : State) (b : Nat) :
    memRead (storeAtWritePointer v s) b = if b = s.adpcm.writePointer.toNat then v else memRead s b :=
  memRead_memWrite s s.adpcm.writePointer v b

end Sys2Proof.Machine
end

