-- ==== Sys2Proof/Laws/Commands.lean ====
section
/-! SUPPORT. What a command handler can do (41_scsi_commands.md R180): what it leaves alone, and the three shapes of its reply. -/

namespace Sys2Proof.Machine

/-- Everything a command handler can change: the audio transport (but not `lastFrame`), the history, the answers and the draws; and the
bus, by a status reply, by a data reply of 2 to 10 bytes, or not at all. -/
structure HandlerEffect (s t : State) : Prop where
  adpcm      : t.adpcm = s.adpcm
  reg        : t.reg = s.reg
  bramLocked : t.bramLocked = s.bramLocked
  fadeCd     : t.fadeCd = s.fadeCd
  fadeAd     : t.fadeAd = s.fadeAd
  fault      : t.fault = s.fault
  hpc        : t.hpc = s.hpc
  program    : t.program = s.program
  config     : t.config = s.config
  lastFrame  : t.audio.lastFrame = s.audio.lastFrame
  bus        : t.bus = s.bus ∨ (∃ c, t.bus = (replyStatus c s).bus) ∨
    (∃ bytes : List Byte, 2 ≤ bytes.length ∧ bytes.length ≤ 10 ∧ t.bus = (replyData bytes s).bus)

theorem HandlerEffect.refl (s : State) : HandlerEffect s s :=
  ⟨rfl, rfl, rfl, rfl, rfl, rfl, rfl, rfl, rfl, rfl, .inl rfl⟩

/-- A status reply, after a change of the audio transport alone. -/
theorem HandlerEffect.of_replyStatus {s u : State} (h : HandlerEffect s u) (hb : u.bus = s.bus) (c : Status) :
    HandlerEffect s (replyStatus c u) where
  adpcm := h.adpcm
  reg := h.reg
  bramLocked := h.bramLocked
  fadeCd := h.fadeCd
  fadeAd := h.fadeAd
  fault := h.fault
  hpc := h.hpc
  program := h.program
  config := h.config
  lastFrame := h.lastFrame
  bus := .inr (.inl ⟨c, by simp only [replyStatus, hb]⟩)

/-- A data reply, after a change that leaves the bus alone. -/
theorem HandlerEffect.of_replyData {s u : State} (h : HandlerEffect s u) (hb : u.bus = s.bus) {bytes : List Byte}
    (h2 : 2 ≤ bytes.length) (h10 : bytes.length ≤ 10) : HandlerEffect s (replyData bytes u) where
  adpcm := h.adpcm
  reg := h.reg
  bramLocked := h.bramLocked
  fadeCd := h.fadeCd
  fadeAd := h.fadeAd
  fault := h.fault
  hpc := h.hpc
  program := h.program
  config := h.config
  lastFrame := h.lastFrame
  bus := .inr (.inr ⟨bytes, h2, h10, by simp only [replyData, hb]⟩)

theorem HandlerEffect.replyOnly (s : State) (c : Status) : HandlerEffect s (replyStatus c s) :=
  (HandlerEffect.refl s).of_replyStatus rfl c

/-- A value of `Except` in a bind that succeeds. -/
theorem Except.bind_eq_ok {ε α β : Type} {x : Except ε α} {f : α → Except ε β} {b : β} (h : (x >>= f) = .ok b) :
    ∃ a, x = .ok a ∧ f a = .ok b := by
  cases x with
  | error e => cases h
  | ok a => exact ⟨a, rfl, h⟩

theorem testUnitReady_effect {s t : State} (h : testUnitReady s = .ok t) : HandlerEffect s t := by
  unfold testUnitReady at h
  split at h <;> (cases h; exact .replyOnly s _)

theorem stopActiveAudio_effect (s : State) : HandlerEffect s (stopActiveAudio s) := by
  unfold stopActiveAudio
  split
  · exact .refl s
  · exact ⟨rfl, rfl, rfl, rfl, rfl, rfl, rfl, rfl, rfl, rfl, .inl rfl⟩

theorem stopActiveAudio_bus (s : State) : (stopActiveAudio s).bus = s.bus := by
  unfold stopActiveAudio
  split <;> rfl

theorem read6_effect {frame : BitVec 21} {count : Byte} {s t : State} (h : read6 frame count s = .ok t) :
    HandlerEffect s t := by
  unfold read6 at h
  split at h
  · cases h; exact .replyOnly s _
  · split at h
    · cases h; exact .replyOnly s _
    · cases h
      have e := stopActiveAudio_effect s
      exact ⟨e.adpcm, e.reg, e.bramLocked, e.fadeCd, e.fadeAd, e.fault, e.hpc, e.program, e.config, e.lastFrame,
        .inl (stopActiveAudio_bus s)⟩

/-- `Player.start` records the call and changes nothing else. -/
theorem startPlayer_ok {f e : Frame} {s t : State} (h : startPlayer f e s = .ok t) :
    f ≤ e ∧ t = s.push (.playerStart f (e - f)) := by
  unfold startPlayer at h
  split at h
  · cases h
  · rename_i hlt
    cases h
    exact ⟨by simpa using hlt, rfl⟩

/-- START_MODE answers what it is given outright, or what the row of the mode bits gives. -/
theorem startMode_ok {table : StartModeTable} {d : Disc} {lastFrame : Frame} {bits : BitVec 2} {f : Frame} {x : StartAnswer}
    (h : startMode table d lastFrame bits f = .ok x) :
    startGiven table.given bits f = some x ∨
    (startGiven table.given bits f = none ∧ startEnd d lastFrame (startRow table bits).extent f = .ok x.endFrame ∧
      x.mode = (startRow table bits).mode ∧ x.armed = (startRow table bits).armed) := by
  unfold startMode at h
  split at h
  · cases h; exact .inl ‹_›
  · rename_i hg
    cases he : startEnd d lastFrame (startRow table bits).extent f with
    | error y => simp only [he] at h; cases h
    | ok e => simp only [he] at h; cases h; exact .inr ⟨hg, rfl, rfl, rfl⟩

/-- An answer given outright is one of the entries. -/
theorem startGiven_mem {bits : BitVec 2} {f : Frame} {x : StartAnswer} :
    ∀ {entries : List StartEntry}, startGiven entries bits f = some x → ⟨bits, f, x⟩ ∈ entries
  | [], h => by cases h
  | e :: rest, h => by
    unfold startGiven at h
    split at h
    · obtain ⟨rfl, rfl⟩ := ‹_ ∧ _›
      cases h
      exact List.mem_cons_self
    · exact List.mem_cons_of_mem _ (startGiven_mem h)

/-- Under a table that arms the poll only with an end action, so does each of its answers. -/
theorem startMode_armsWithAction {table : StartModeTable} {d : Disc} {lastFrame : Frame} {bits : BitVec 2} {f : Frame}
    {x : StartAnswer} (ht : StartModeTable.armsWithAction table) (h : startMode table d lastFrame bits f = .ok x) (ha : x.armed = true) :
    x.mode ≠ .noEnd := by
  obtain ⟨h0, h1, h2, h3, hg⟩ := ht
  rcases startMode_ok h with h | ⟨-, -, hm, hr⟩
  · exact hg _ (startGiven_mem h) ha
  · rw [hm]; rw [hr] at ha
    revert ha
    unfold startRow
    split
    exacts [h0, h1, h2, h3]

theorem setAudioStart_effect {mode : BitVec 2} {addr : AudioAddr} {s t : State} (h : setAudioStart mode addr s = .ok t) :
    HandlerEffect s t := by
  unfold setAudioStart at h
  split at h
  · cases h; exact .replyOnly s _
  · obtain ⟨f, -, h⟩ := Except.bind_eq_ok h
    obtain ⟨e, -, h⟩ := Except.bind_eq_ok h
    obtain ⟨u, hu, h⟩ := Except.bind_eq_ok h
    obtain ⟨-, rfl⟩ := startPlayer_ok hu
    cases h
    apply HandlerEffect.of_replyStatus ?_ ?_
    · exact ⟨rfl, rfl, rfl, rfl, rfl, rfl, rfl, rfl, rfl, rfl, .inl rfl⟩
    · rfl

theorem resumePlayer_effect {f : Frame} {s t : State} (h : resumePlayer f s = .ok t) :
    HandlerEffect s t ∧ t.bus = s.bus := by
  unfold resumePlayer at h
  split at h
  · cases h
    exact ⟨⟨rfl, rfl, rfl, rfl, rfl, rfl, rfl, rfl, rfl, rfl, .inl rfl⟩, rfl⟩
  · obtain ⟨-, rfl⟩ := startPlayer_ok h
    exact ⟨⟨rfl, rfl, rfl, rfl, rfl, rfl, rfl, rfl, rfl, rfl, .inl rfl⟩, rfl⟩

theorem resumeOrStart_effect {f : Frame} {s t : State} (h : resumeOrStart f s = .ok t) :
    HandlerEffect s t ∧ t.bus = s.bus := by
  obtain ⟨u, hu, h⟩ := Except.bind_eq_ok h
  cases h
  obtain ⟨e, hb⟩ := resumePlayer_effect hu
  exact ⟨⟨e.adpcm, e.reg, e.bramLocked, e.fadeCd, e.fadeAd, e.fault, e.hpc, e.program, e.config, e.lastFrame,
    .inl hb⟩, hb⟩

theorem endPlayback_effect {mode : BitVec 2} {f : Frame} {s t : State} (h : endPlayback mode f s = .ok t) :
    HandlerEffect s t ∧ t.bus = s.bus := by
  unfold endPlayback at h
  split at h
  · cases h
    exact ⟨⟨rfl, rfl, rfl, rfl, rfl, rfl, rfl, rfl, rfl, rfl, .inl rfl⟩, rfl⟩
  · exact resumeOrStart_effect h

theorem setAudioEnd_effect {mode : BitVec 2} {addr : AudioAddr} {s t : State} (h : setAudioEnd mode addr s = .ok t) :
    HandlerEffect s t := by
  unfold setAudioEnd at h
  split at h
  · cases h; exact .replyOnly s _
  · obtain ⟨f, -, h⟩ := Except.bind_eq_ok h
    obtain ⟨u, hu, h⟩ := Except.bind_eq_ok h
    cases h
    obtain ⟨e, hb⟩ := endPlayback_effect hu
    exact HandlerEffect.of_replyStatus (s := s) ⟨e.adpcm, e.reg, e.bramLocked, e.fadeCd, e.fadeAd, e.fault, e.hpc,
      e.program, e.config, e.lastFrame, .inl hb⟩ hb _

theorem askPlayerFrame_effect (s : State) : HandlerEffect s (askPlayerFrame s) ∧ (askPlayerFrame s).bus = s.bus ∧
    (askPlayerFrame s).audio = s.audio := by
  unfold askPlayerFrame
  split <;> exact ⟨⟨rfl, rfl, rfl, rfl, rfl, rfl, rfl, rfl, rfl, rfl, .inl rfl⟩, rfl, rfl⟩

theorem pause_effect {s t : State} (h : pause s = .ok t) : HandlerEffect s t := by
  unfold pause at h
  split at h
  · cases h; exact .replyOnly s _
  · cases h; exact .replyOnly s _
  · cases h
    obtain ⟨e, hb, ha⟩ := askPlayerFrame_effect s
    apply HandlerEffect.of_replyStatus ?_ ?_
    · exact ⟨e.adpcm, e.reg, e.bramLocked, e.fadeCd, e.fadeAd, e.fault, e.hpc, e.program, e.config, e.lastFrame,
        .inl hb⟩
    · exact hb

theorem askPosition_effect (s : State) : HandlerEffect s (askPosition s) ∧ (askPosition s).bus = s.bus ∧
    (askPosition s).audio = s.audio := by
  unfold askPosition
  split
  · exact ⟨.refl s, rfl, rfl⟩
  · exact askPlayerFrame_effect s

theorem subchannelReply_length (code : Byte) (t start f : Nat) : (subchannelReply code t start f).length = 10 := rfl

theorem getSubchannelQ_effect {s t : State} (h : getSubchannelQ s = .ok t) : HandlerEffect s t := by
  unfold getSubchannelQ at h
  split at h
  · cases h
  · obtain ⟨x, -, h⟩ := Except.bind_eq_ok h
    cases h
    obtain ⟨e, hb, -⟩ := askPosition_effect s
    apply HandlerEffect.of_replyData ?_ ?_ (by simp [subchannelReply_length]) (by simp [subchannelReply_length])
    · exact ⟨e.adpcm, e.reg, e.bramLocked, e.fadeCd, e.fadeAd, e.fault, e.hpc, e.program, e.config, e.lastFrame, .inl hb⟩
    · exact hb

theorem askToc_effect (d : Disc) (s : State) : HandlerEffect s (askToc d s) :=
  ⟨rfl, rfl, rfl, rfl, rfl, rfl, rfl, rfl, rfl, rfl, .inl rfl⟩

theorem dirInfoTracks_effect {s t : State} (h : dirInfoTracks s = .ok t) : HandlerEffect s t := by
  obtain ⟨d, -, h⟩ := Except.bind_eq_ok h
  cases h
  exact (askToc_effect d s).of_replyData rfl (by simp) (by simp)

theorem dirInfoDiscSize_effect {s t : State} (h : dirInfoDiscSize s = .ok t) : HandlerEffect s t := by
  obtain ⟨d, -, h⟩ := Except.bind_eq_ok h
  cases h
  exact (askToc_effect d s).of_replyData rfl (by simp [msf]) (by simp [msf])

theorem dirInfoTrackStart_effect {track : Byte} {s t : State} (h : dirInfoTrackStart track s = .ok t) :
    HandlerEffect s t := by
  obtain ⟨d, -, h⟩ := Except.bind_eq_ok h
  obtain ⟨x, -, h⟩ := Except.bind_eq_ok h
  cases h
  exact (askToc_effect d s).of_replyData rfl (by simp [msf]) (by simp [msf])

theorem getDirInfo_effect {subFunction track : Byte} {s t : State} (h : getDirInfo subFunction track s = .ok t) :
    HandlerEffect s t := by
  unfold getDirInfo at h
  split at h
  · cases h
  · split at h
    · exact dirInfoTracks_effect h
    · exact dirInfoDiscSize_effect h
    · exact dirInfoTrackStart_effect h
    · cases h

/-- Everything a command handler can do. -/
theorem handler_effect {c : Command} {s t : State} (h : handler c s = .ok t) : HandlerEffect s t := by
  cases c with
  | testUnitReady => exact testUnitReady_effect h
  | read6 frame count => exact read6_effect h
  | setAudioStart mode addr => exact setAudioStart_effect h
  | setAudioEnd mode addr => exact setAudioEnd_effect h
  | pause => exact pause_effect h
  | getSubchannelQ => exact getSubchannelQ_effect h
  | getDirInfo subFunction track => exact getDirInfo_effect h

theorem audioCommand_effect {cmd : AudioCommand} {mode : BitVec 2} {addr : AudioAddr} {s t : State}
    (h : audioCommand cmd mode addr s = .ok t) : HandlerEffect s t := by
  cases cmd with
  | start => exact setAudioStart_effect h
  | finish => exact setAudioEnd_effect h

end Sys2Proof.Machine
end

