-- ==== Sys2Proof/Laws/Encoding.lean ====
section
/-! SUPPORT. The fields of the encodings of 30_encoding.md: a field of a word built from fields is that field. -/

namespace Sys2Proof

/-- The kind of a word built from its fields. -/
theorem opKind_hostWord (k : BitVec 2) (s : BitVec 4) (d : Byte) : opKind (hostWord k s d) = k := by
  apply BitVec.eq_of_getLsbD_eq; intro i hi
  simp only [opKind, hostWord, BitVec.getLsbD_extractLsb', BitVec.getLsbD_append, hi, decide_true, Bool.true_and]
  rw [if_neg (by omega), if_neg (by omega)]; congr 1; omega

/-- The selector of a word built from its fields. -/
theorem opSel_hostWord (k : BitVec 2) (s : BitVec 4) (d : Byte) : opSel (hostWord k s d) = s := by
  apply BitVec.eq_of_getLsbD_eq; intro i hi
  simp only [opSel, hostWord, BitVec.getLsbD_extractLsb', BitVec.getLsbD_append, hi, decide_true, Bool.true_and]
  rw [if_neg (by omega), if_pos (by omega)]; congr 1; omega

/-- The data byte of a word built from its fields. -/
theorem opData_hostWord (k : BitVec 2) (s : BitVec 4) (d : Byte) : opData (hostWord k s d) = d := by
  apply BitVec.eq_of_getLsbD_eq; intro i hi
  simp only [opData, hostWord, BitVec.getLsbD_extractLsb', BitVec.getLsbD_append, hi, decide_true, Bool.true_and]
  rw [if_pos (by omega)]; congr 1; omega

/-- A word is the word of its fields. -/
theorem hostWord_fields (w : HostWord) : hostWord (opKind w) (opSel w) (opData w) = w := by
  apply BitVec.eq_of_getLsbD_eq; intro i hi
  simp only [opKind, opSel, opData, hostWord, BitVec.getLsbD_extractLsb', BitVec.getLsbD_append]
  split
  · simp [*]
  · split
    · rename_i h1 h2
      simp only [h2, decide_true, Bool.true_and]; congr 1; omega
    · have h3 : i - 8 - 4 < 2 := by omega
      simp only [h3, decide_true, Bool.true_and]; congr 1; omega

/-- The low nibble of a fade byte is its program. -/
theorem fadeByte_low (h p : BitVec 4) : (fadeByte h p).extractLsb' 0 4 = p := by
  apply BitVec.eq_of_getLsbD_eq; intro i hi
  simp only [fadeByte, BitVec.getLsbD_extractLsb', BitVec.getLsbD_append, hi, decide_true, Bool.true_and]
  rw [if_pos (by omega)]; congr 1; omega

/-- The high nibble of a fade byte is the one it was given. -/
theorem fadeByte_high (h p : BitVec 4) : (fadeByte h p).extractLsb' 4 4 = h := by
  apply BitVec.eq_of_getLsbD_eq; intro i hi
  simp only [fadeByte, BitVec.getLsbD_extractLsb', BitVec.getLsbD_append, hi, decide_true, Bool.true_and]
  rw [if_neg (by omega)]; congr 1; omega

/-- A byte is the fade byte of its nibbles. -/
theorem fadeByte_nibbles (v : Byte) : fadeByte (v.extractLsb' 4 4) (v.extractLsb' 0 4) = v := by
  apply BitVec.eq_of_getLsbD_eq; intro i hi
  simp only [fadeByte, BitVec.getLsbD_extractLsb', BitVec.getLsbD_append]
  split
  · simp [*]
  · have h3 : i - 4 < 4 := by omega
    simp only [h3, decide_true, Bool.true_and]; congr 1; omega

/-- The kind of a reserved word. -/
theorem opKind_reserved (l : BitVec 12) : opKind ((3 : BitVec 2) ++ l) = 3 := by
  apply BitVec.eq_of_getLsbD_eq; intro i hi
  simp only [opKind, BitVec.getLsbD_extractLsb', BitVec.getLsbD_append, hi, decide_true, Bool.true_and]
  rw [if_neg (by omega)]; congr 1; omega

/-- The twelve low bits of a reserved word. -/
theorem reserved_low (l : BitVec 12) : ((3 : BitVec 2) ++ l : BitVec 14).extractLsb' 0 12 = l := by
  apply BitVec.eq_of_getLsbD_eq; intro i hi
  simp only [BitVec.getLsbD_extractLsb', BitVec.getLsbD_append, hi, decide_true, Bool.true_and]
  rw [if_pos (by omega)]; congr 1; omega

/-- The 21 bits of a READ(6) frame, taken apart into the three bytes that carry them and put together. -/
theorem read6_frame_fields (f : BitVec 21) : ((f.extractLsb' 16 5).setWidth 8).extractLsb' 0 5 ++ f.extractLsb' 8 8 ++ f.extractLsb' 0 8 = f := by
  apply BitVec.eq_of_getLsbD_eq; intro i hi
  simp only [BitVec.getLsbD_extractLsb', BitVec.getLsbD_append, BitVec.getLsbD_setWidth]
  split
  · simp [*]
  · split
    · rename_i h1 h2
      simp only [h2, decide_true, Bool.true_and]; congr 1; omega
    · have h3 : i - 8 - 8 < 5 := by omega
      have h4 : 0 + (i - 8 - 8) < 8 := by omega
      have h5 : 0 + (i - 8 - 8) < 5 := by omega
      simp only [h3, h4, h5, decide_true, Bool.true_and]; congr 1; omega

/-- The 24 bits of an LBA, taken apart into bytes and put together. -/
theorem lba_fields (f : BitVec 24) : f.extractLsb' 16 8 ++ f.extractLsb' 8 8 ++ f.extractLsb' 0 8 = f := by
  apply BitVec.eq_of_getLsbD_eq; intro i hi
  simp only [BitVec.getLsbD_extractLsb', BitVec.getLsbD_append]
  split
  · simp [*]
  · split
    · rename_i h1 h2
      simp only [h2, decide_true, Bool.true_and]; congr 1; omega
    · have h3 : i - 8 - 8 < 8 := by omega
      simp only [h3, decide_true, Bool.true_and]; congr 1; omega

/-- The mode bits of the byte that carries them. -/
theorem mode_fields (m : BitVec 2) : (m.setWidth 8).extractLsb' 0 2 = m := by
  revert m; decide

/-- The word of a read decodes to its row. -/
theorem decodeHostOp_read (sel : BitVec 4) : decodeHostOp (hostWord 0 sel 0) = .ok (readRow sel) := by
  simp [decodeHostOp, opKind_hostWord, opSel_hostWord, opData_hostWord]

/-- The word of a write decodes to its row. -/
theorem decodeHostOp_write (sel : BitVec 4) (d : Byte) : decodeHostOp (hostWord 1 sel d) = .ok (writeRow sel d) := by
  simp [decodeHostOp, opKind_hostWord, opSel_hostWord, opData_hostWord]

/-- The word of an event decodes to its row. -/
theorem decodeHostOp_event (sel : BitVec 4) (d : Byte) : decodeHostOp (hostWord 2 sel d) = eventRow sel d := by
  simp [decodeHostOp, opKind_hostWord, opSel_hostWord, opData_hostWord]

/-- The mode bits of an encoded audio command. -/
theorem cdbMode_audioBytes (op : Byte) (mode : BitVec 2) (addr : AudioAddr) : cdbMode (audioBytes op mode addr) = mode := by
  cases addr <;> exact mode_fields mode

/-- The audio address of an encoded audio command. -/
theorem cdbAudioAddr_audioBytes (op : Byte) (mode : BitVec 2) (addr : AudioAddr) : cdbAudioAddr (audioBytes op mode addr) = addr := by
  cases addr <;> simp [cdbAudioAddr, audioBytes, cdbByte, cdbLba, lba_fields]

end Sys2Proof
end

