-- ==== Sys2Proof/Laws/Pump.lean ====
section
/-! SUPPORT. The pump of 40_bus_phases.md: when it is at rest, as a condition on the bus alone; what its result is; and everything a
pump can change. -/

namespace Sys2Proof.Machine

/-! ## At rest -/

/-- No phase step changes anything in this phase. -/
def quietPhase (b : Bus) : Phase → Bool
  | .busFree => true
  | .command => !(b.req && b.ack) && (b.req || b.ack || b.commandBuffer.isEmpty)
  | .status => !(b.req && b.ack) && (b.req || b.ack || !b.statusSent)
  | .messageIn => !(b.req && b.ack) && (b.req || b.ack || !b.messageSent)
  | .messageOut => true
  | .dataIn => !(b.req && b.ack) && (b.req || b.ack ||
      (decide (b.dataIndex = b.dataSize) && decide (b.irqStatus &&& ~~~irqReady = b.irqStatus) && !b.dataTransferred))
  | .dataOut => !(b.req && b.ack)

/-- No pass changes anything: no edge of RST, no release, no selection, no phase step. -/
def quietBus (b : Bus) : Bool :=
  decide (b.rst = b.lastRst) && !(!b.sel && !b.bsy && b.selected) && !(b.sel && !b.selected) &&
    (!(b.bsy && !b.atn) || quietPhase b (phaseOf b))

theorem resetEdge_of_eq {s : State} (h : s.bus.rst = s.bus.lastRst) : resetEdge s = s := by simp [resetEdge, h]

theorem busRelease_of_not {s : State} (h : (!s.bus.sel && !s.bus.bsy && s.bus.selected) = false) : busRelease s = s := by
  simp only [busRelease, h, Bool.false_eq_true, if_false]

theorem select_of_not {s : State} (h : (s.bus.sel && !s.bus.selected) = false) : select s = s := by
  simp only [select, h, Bool.false_eq_true, if_false]

/-- A bus with no edge, no release and no selection leaves the whole state to the phase step. -/
theorem linePasses_of_quiet {s : State} (h1 : s.bus.rst = s.bus.lastRst)
    (h2 : (!s.bus.sel && !s.bus.bsy && s.bus.selected) = false) (h3 : (s.bus.sel && !s.bus.selected) = false) :
    linePasses s = s := by
  simp only [linePasses, resetEdge_of_eq h1, busRelease_of_not h2, select_of_not h3]

theorem phaseStep_of_quiet {s : State} {p : Phase} (h : quietPhase s.bus p = true) : phaseStep p s = .ok s := by
  cases p with
  | busFree => rfl
  | messageOut => rfl
  | command =>
    simp only [quietPhase, Bool.and_eq_true, Bool.not_eq_true', Bool.or_eq_true, List.isEmpty_iff] at h
    simp only [phaseStep, commandStep, h.1, Bool.false_eq_true, if_false]
    split
    · rename_i hq
      simp only [Bool.and_eq_true, Bool.not_eq_true'] at hq
      simp only [hq.1, hq.2, Bool.false_eq_true, false_or] at h
      simp [h.2]
    · rfl
  | status =>
    simp only [quietPhase, Bool.and_eq_true, Bool.not_eq_true', Bool.or_eq_true] at h
    simp only [phaseStep, statusStep, h.1, Bool.false_eq_true, if_false]
    rw [if_neg]
    simp only [Bool.and_eq_true, Bool.not_eq_true', not_and]
    rintro ⟨h1, h2⟩ h3
    simp [h1, h2, h3] at h
  | messageIn =>
    simp only [quietPhase, Bool.and_eq_true, Bool.not_eq_true', Bool.or_eq_true] at h
    simp only [phaseStep, messageInStep, h.1, Bool.false_eq_true, if_false]
    rw [if_neg]
    simp only [Bool.and_eq_true, Bool.not_eq_true', not_and]
    rintro ⟨h1, h2⟩ h3
    simp [h1, h2, h3] at h
  | dataIn =>
    simp only [quietPhase, Bool.and_eq_true, Bool.not_eq_true', Bool.or_eq_true, decide_eq_true_eq] at h
    simp only [phaseStep, dataInStep, h.1, Bool.false_eq_true, if_false]
    split
    · rename_i hq
      simp only [Bool.and_eq_true, Bool.not_eq_true'] at hq
      simp only [hq.1, hq.2, Bool.false_eq_true, false_or] at h
      obtain ⟨-, ⟨hi, hr⟩, ht⟩ := h
      rw [if_pos hi]
      unfold dataDrained
      rw [hr, if_neg (by simp [ht])]
    · rfl
  | dataOut =>
    simp only [quietPhase, Bool.not_eq_true'] at h
    simp [phaseStep, dataOutStep, h]

/-- A quiet bus is at rest, whatever the rest of the state holds. -/
theorem atRest_of_quiet {s : State} (h : quietBus s.bus = true) : AtRest s := by
  simp only [quietBus, Bool.and_eq_true, decide_eq_true_eq, Bool.not_eq_true'] at h
  obtain ⟨⟨⟨h1, h2⟩, h3⟩, h4⟩ := h
  simp only [AtRest, pass, linePasses_of_quiet h1 h2 h3, phasePass]
  split
  · rename_i hb
    simp only [hb, Bool.not_true, Bool.false_or] at h4
    exact phaseStep_of_quiet h4
  · rfl

/-! ## Every pass that changes the state changes the key -/

theorem resetEdge_bus_eq {s : State} (h : s.bus.rst ≠ s.bus.lastRst) : (resetEdge s).bus.lastRst = s.bus.rst := by
  simp only [resetEdge, h, if_false]
  split <;> rfl

/-- The line passes keep ACK, RST and the buffers. -/
structure LineEffect (s t : State) : Prop where
  ack : t.bus.ack = s.bus.ack
  rst : t.bus.rst = s.bus.rst
  atn : t.bus.atn = true → s.bus.atn = true
  sel : t.bus.sel = true → s.bus.sel = true
  lastRst : t.bus.lastRst = s.bus.rst
  dataReg : t.bus.dataReg = s.bus.dataReg
  commandBuffer : t.bus.commandBuffer = s.bus.commandBuffer
  dataBuffer : t.bus.dataBuffer = s.bus.dataBuffer
  dataIndex : t.bus.dataIndex = s.bus.dataIndex
  dataSize : t.bus.dataSize = s.bus.dataSize
  messageAfterStatus : t.bus.messageAfterStatus = s.bus.messageAfterStatus
  statusSent : t.bus.statusSent = s.bus.statusSent
  messageSent : t.bus.messageSent = s.bus.messageSent
  dataTransferred : t.bus.dataTransferred = s.bus.dataTransferred
  irqStatus : t.bus.irqStatus = s.bus.irqStatus ∨ t.bus.irqStatus = s.bus.irqStatus &&& ~~~irqDone

theorem resetEdge_effect (s : State) : LineEffect s (resetEdge s) := by
  unfold resetEdge
  split
  · rename_i h
    exact ⟨rfl, rfl, id, id, h.symm, rfl, rfl, rfl, rfl, rfl, rfl, rfl, rfl, rfl, .inl rfl⟩
  · split
    · exact ⟨rfl, rfl, nofun, nofun, rfl, rfl, rfl, rfl, rfl, rfl, rfl, rfl, rfl, rfl, .inl rfl⟩
    · exact ⟨rfl, rfl, id, id, rfl, rfl, rfl, rfl, rfl, rfl, rfl, rfl, rfl, rfl, .inl rfl⟩

theorem linePasses_effect (s : State) : LineEffect s (linePasses s) := by
  have h := resetEdge_effect s
  unfold linePasses
  generalize resetEdge s = u at h
  simp only [busRelease, select]
  split <;> split <;>
    first
    | exact ⟨h.ack, h.rst, h.atn, h.sel, h.lastRst, h.dataReg, h.commandBuffer, h.dataBuffer, h.dataIndex, h.dataSize,
        h.messageAfterStatus, h.statusSent, h.messageSent, h.dataTransferred, h.irqStatus⟩
    | (refine ⟨h.ack, h.rst, h.atn, h.sel, h.lastRst, h.dataReg, h.commandBuffer, h.dataBuffer, h.dataIndex, h.dataSize,
        h.messageAfterStatus, h.statusSent, h.messageSent, h.dataTransferred, ?_⟩
       rcases h.irqStatus with hi | hi
       · exact .inr (by simp only [hi])
       · exact .inr (by simp only [hi, BitVec.and_assoc, BitVec.and_self]))

/-! ## The phase steps -/

/-- Everything a phase step that raises nothing can do. -/
inductive PhaseMove (s : State) : Phase → State → Prop
  /-- Nothing: the phase is quiet. -/
  | stay {p : Phase} : quietPhase s.bus p = true → PhaseMove s p s
  /-- A command byte is taken (R148). -/
  | commandByte : s.bus.req = true → s.bus.ack = true → s.bus.commandBuffer.length ≠ Config.commandCapacity →
      PhaseMove s .command
        { s with bus.commandBuffer := s.bus.commandBuffer ++ [s.bus.dataReg], bus.req := false }
  /-- The next command byte is asked for (R149). -/
  | commandMore : s.bus.req = false → s.bus.ack = false → s.bus.commandBuffer ≠ [] →
      PhaseMove s .command { s with bus.req := true }
  /-- The command runs (R149). -/
  | commandRun {c : Command} {t : State} : s.bus.req = false → s.bus.ack = false → s.bus.commandBuffer ≠ [] →
      decodeCommand s.bus.commandBuffer = .ok c → handler c { s with bus.commandBuffer := [] } = .ok t →
      PhaseMove s .command t
  /-- The status byte is acknowledged (R147). -/
  | statusTaken : s.bus.req = true → s.bus.ack = true →
      PhaseMove s .status { s with bus.req := false, bus.statusSent := true }
  /-- The message byte follows (R147). -/
  | statusMessage : s.bus.req = false → s.bus.ack = false → s.bus.statusSent = true →
      s.bus.messageAfterStatus = true →
      PhaseMove s .status { s with
        bus.statusSent := false, bus.messageAfterStatus := false, bus.msg := true, bus.req := true
        bus.dataReg := messageByte }
  /-- No message byte follows (R147). -/
  | statusOnly : s.bus.req = false → s.bus.ack = false → s.bus.statusSent = true →
      s.bus.messageAfterStatus = false → PhaseMove s .status { s with bus.statusSent := false }
  /-- The message byte is acknowledged (R145). -/
  | messageTaken : s.bus.req = true → s.bus.ack = true →
      PhaseMove s .messageIn { s with bus.req := false, bus.messageSent := true }
  /-- The message is over (R145). -/
  | messageDone : s.bus.req = false → s.bus.ack = false → s.bus.messageSent = true →
      PhaseMove s .messageIn { s with bus.messageSent := false, bus.bsy := false }
  /-- A data-in byte is acknowledged (R152). -/
  | dataTaken : s.bus.req = true → s.bus.ack = true → PhaseMove s .dataIn { s with bus.req := false }
  /-- The next data-in byte is placed (R152). -/
  | dataPlaced : s.bus.req = false → s.bus.ack = false → s.bus.dataIndex ≠ s.bus.dataSize →
      PhaseMove s .dataIn { s with
        bus.dataReg := dataByte s s.bus.dataIndex, bus.dataIndex := s.bus.dataIndex + 1, bus.req := true }
  /-- The buffer is drained between two sectors (R152). -/
  | dataWaits : s.bus.req = false → s.bus.ack = false → s.bus.dataIndex = s.bus.dataSize →
      s.bus.dataTransferred = false → s.bus.irqStatus &&& ~~~irqReady ≠ s.bus.irqStatus →
      PhaseMove s .dataIn { s with bus.irqStatus := s.bus.irqStatus &&& ~~~irqReady }
  /-- The buffer is drained for good: the OK status follows (R152). -/
  | dataDone : s.bus.req = false → s.bus.ack = false → s.bus.dataIndex = s.bus.dataSize →
      s.bus.dataTransferred = true →
      PhaseMove s .dataIn { s with
        bus.irqStatus := (s.bus.irqStatus &&& ~~~irqReady) ||| irqDone, bus.dataTransferred := false
        bus.cd := true, bus.io := true, bus.req := true, bus.msg := false
        bus.messageAfterStatus := true, bus.statusSent := false, bus.messageSent := false
        bus.dataReg := 0x00 }

theorem bool_and_not {a b : Bool} (h : (!a && !b) = true) : a = false ∧ b = false := by
  cases a <;> cases b <;> simp_all

/-- The two tests of a handshake step, spelled out. -/
theorem handshake_cases (req ack : Bool) :
    (req = true ∧ ack = true) ∨ (req = false ∧ ack = false) ∨ ((req && ack) = false ∧ (!req && !ack) = false ∧
      (req || ack) = true) := by
  cases req <;> cases ack <;> simp

theorem commandStep_moves {s t : State} (h : commandStep s = .ok t) : PhaseMove s .command t := by
  unfold commandStep at h
  rcases handshake_cases s.bus.req s.bus.ack with ⟨h1, h2⟩ | ⟨h1, h2⟩ | ⟨h1, h2, h3⟩
  · simp only [h1, h2, Bool.and_self, if_true] at h
    split at h
    · cases h
    · rename_i hl
      cases h
      have := PhaseMove.commandByte (s := s) h1 h2 hl
      simpa only [h2] using this
  · simp only [h1, h2, Bool.and_self, Bool.false_eq_true, if_false, Bool.not_false, if_true] at h
    split at h
    · rename_i he
      cases h
      exact .stay (by simp [quietPhase, h1, h2, he])
    · rename_i op rest he
      have hne : s.bus.commandBuffer ≠ [] := by simp [he]
      unfold dispatch at h
      split at h
      · cases h
      · split at h
        · split at h
          · rename_i c hc
            exact .commandRun h1 h2 hne hc h
          · cases h
        · cases h
          exact .commandMore h1 h2 hne
  · simp only [h1, h2, Bool.false_eq_true, if_false] at h
    cases h
    exact .stay (by simp only [quietPhase, h1, h3, Bool.not_false, Bool.true_or, Bool.and_self])

theorem statusStep_moves (s : State) : PhaseMove s .status (statusStep s) := by
  unfold statusStep
  rcases handshake_cases s.bus.req s.bus.ack with ⟨h1, h2⟩ | ⟨h1, h2⟩ | ⟨h1, h2, h3⟩
  · rw [if_pos (by simp [h1, h2])]
    exact .statusTaken h1 h2
  · rw [if_neg (by simp [h1])]
    by_cases h3 : s.bus.statusSent = true
    · rw [if_pos (by simp [h1, h2, h3])]
      dsimp only
      by_cases h4 : s.bus.messageAfterStatus = true
      · rw [if_pos h4]
        exact .statusMessage h1 h2 h3 h4
      · rw [if_neg h4]
        exact .statusOnly h1 h2 h3 (by simpa using h4)
    · rw [if_neg (by simp [h3])]
      exact .stay (by simp [quietPhase, h1, h2, h3])
  · rw [if_neg (by simp [h1]), if_neg (by simp [h2])]
    exact .stay (by simp only [quietPhase, h1, h3, Bool.not_false, Bool.true_or, Bool.and_self])

theorem messageInStep_moves (s : State) : PhaseMove s .messageIn (messageInStep s) := by
  unfold messageInStep
  rcases handshake_cases s.bus.req s.bus.ack with ⟨h1, h2⟩ | ⟨h1, h2⟩ | ⟨h1, h2, h3⟩
  · rw [if_pos (by simp [h1, h2])]
    exact .messageTaken h1 h2
  · rw [if_neg (by simp [h1])]
    by_cases h3 : s.bus.messageSent = true
    · rw [if_pos (by simp [h1, h2, h3])]
      exact .messageDone h1 h2 h3
    · rw [if_neg (by simp [h3])]
      exact .stay (by simp [quietPhase, h1, h2, h3])
  · rw [if_neg (by simp [h1]), if_neg (by simp [h2])]
    exact .stay (by simp only [quietPhase, h1, h3, Bool.not_false, Bool.true_or, Bool.and_self])

theorem dataInStep_moves (s : State) : PhaseMove s .dataIn (dataInStep s) := by
  unfold dataInStep
  rcases handshake_cases s.bus.req s.bus.ack with ⟨h1, h2⟩ | ⟨h1, h2⟩ | ⟨h1, h2, h3⟩
  · rw [if_pos (by simp [h1, h2])]
    exact .dataTaken h1 h2
  · rw [if_neg (by simp [h1]), if_pos (by simp [h1, h2])]
    split
    · rename_i hi
      unfold dataDrained
      dsimp only
      by_cases h3 : s.bus.dataTransferred = true
      · rw [if_pos h3]
        exact .dataDone h1 h2 hi h3
      · rw [if_neg h3]
        have h3 : s.bus.dataTransferred = false := by simpa using h3
        by_cases hr : s.bus.irqStatus &&& ~~~irqReady = s.bus.irqStatus
        · rw [hr]
          exact .stay (by simp [quietPhase, h1, h2, h3, hi, hr])
        · exact .dataWaits h1 h2 hi h3 hr
    · rename_i hi
      exact .dataPlaced h1 h2 hi
  · rw [if_neg (by simp [h1]), if_neg (by simp [h2])]
    exact .stay (by simp only [quietPhase, h1, h3, Bool.not_false, Bool.true_or, Bool.and_self])

/-- Everything a phase step that raises nothing can do. -/
theorem phaseStep_moves {p : Phase} {s t : State} (h : phaseStep p s = .ok t) : PhaseMove s p t := by
  cases p with
  | busFree => cases h; exact .stay rfl
  | messageOut => cases h; exact .stay rfl
  | command => exact commandStep_moves h
  | status => cases h; exact statusStep_moves s
  | messageIn => cases h; exact messageInStep_moves s
  | dataIn => cases h; exact dataInStep_moves s
  | dataOut =>
    simp only [phaseStep, dataOutStep] at h
    split at h
    · cases h
    · rename_i hq
      cases h
      exact .stay (by simp only [quietPhase, Bool.eq_false_of_not_eq_true hq, Bool.not_false])

/-! ## What a pump leaves alone -/

/-- Everything a pass, and so a pump, leaves alone: the ADPCM engine but for the DMA timer, which only a reset edge disarms; the
registers; the lock; the fades; the fault; the schedule and the parameters; ACK and RST. -/
structure PumpEffect (s t : State) : Prop where
  adpcm      : t.adpcm = { s.adpcm with dmaTimerArmed := t.adpcm.dmaTimerArmed }
  dmaTimer   : t.adpcm.dmaTimerArmed = true → s.adpcm.dmaTimerArmed = true
  reg        : t.reg = s.reg
  bramLocked : t.bramLocked = s.bramLocked
  fadeCd     : t.fadeCd = s.fadeCd
  fadeAd     : t.fadeAd = s.fadeAd
  fault      : t.fault = s.fault
  hpc        : t.hpc = s.hpc
  program    : t.program = s.program
  config     : t.config = s.config
  lastFrame  : t.audio.lastFrame = s.audio.lastFrame
  ack        : t.bus.ack = s.bus.ack
  rst        : t.bus.rst = s.bus.rst
  sel        : t.bus.sel = true → s.bus.sel = true
  atn        : t.bus.atn = true → s.bus.atn = true

theorem PumpEffect.refl (s : State) : PumpEffect s s :=
  ⟨rfl, id, rfl, rfl, rfl, rfl, rfl, rfl, rfl, rfl, rfl, rfl, rfl, id, id⟩

theorem PumpEffect.trans {s t u : State} (h : PumpEffect s t) (k : PumpEffect t u) : PumpEffect s u where
  adpcm := by rw [k.adpcm, h.adpcm]
  dmaTimer := h.dmaTimer ∘ k.dmaTimer
  reg := k.reg.trans h.reg
  bramLocked := k.bramLocked.trans h.bramLocked
  fadeCd := k.fadeCd.trans h.fadeCd
  fadeAd := k.fadeAd.trans h.fadeAd
  fault := k.fault.trans h.fault
  hpc := k.hpc.trans h.hpc
  program := k.program.trans h.program
  config := k.config.trans h.config
  lastFrame := k.lastFrame.trans h.lastFrame
  ack := k.ack.trans h.ack
  rst := k.rst.trans h.rst
  sel := h.sel ∘ k.sel
  atn := h.atn ∘ k.atn

theorem resetEdge_pumpEffect (s : State) : PumpEffect s (resetEdge s) := by
  unfold resetEdge
  split
  · exact .refl s
  · split
    · exact ⟨rfl, nofun, rfl, rfl, rfl, rfl, rfl, rfl, rfl, rfl, rfl, rfl, rfl, nofun, nofun⟩
    · exact ⟨rfl, id, rfl, rfl, rfl, rfl, rfl, rfl, rfl, rfl, rfl, rfl, rfl, id, id⟩

theorem busRelease_pumpEffect (s : State) : PumpEffect s (busRelease s) := by
  unfold busRelease
  split
  · exact ⟨rfl, id, rfl, rfl, rfl, rfl, rfl, rfl, rfl, rfl, rfl, rfl, rfl, id, id⟩
  · exact .refl s

theorem select_pumpEffect (s : State) : PumpEffect s (select s) := by
  unfold select
  split
  · exact ⟨rfl, id, rfl, rfl, rfl, rfl, rfl, rfl, rfl, rfl, rfl, rfl, rfl, id, id⟩
  · exact .refl s

theorem linePasses_pumpEffect (s : State) : PumpEffect s (linePasses s) :=
  ((resetEdge_pumpEffect s).trans (busRelease_pumpEffect _)).trans (select_pumpEffect _)

/-- A handler's bus keeps the lines it does not drive. -/
theorem HandlerEffect.lines {s t : State} (h : HandlerEffect s t) :
    t.bus.ack = s.bus.ack ∧ t.bus.rst = s.bus.rst ∧ t.bus.sel = s.bus.sel ∧ t.bus.atn = s.bus.atn ∧
    t.bus.bsy = s.bus.bsy ∧ t.bus.selected = s.bus.selected ∧ t.bus.lastRst = s.bus.lastRst ∧
    t.bus.commandBuffer = s.bus.commandBuffer ∧ t.bus.irqStatus = s.bus.irqStatus := by
  rcases h.bus with hb | ⟨c, hb⟩ | ⟨bytes, -, -, hb⟩ <;> rw [hb] <;> exact ⟨rfl, rfl, rfl, rfl, rfl, rfl, rfl, rfl, rfl⟩

theorem PhaseMove.pumpEffect {s t : State} {p : Phase} (h : PhaseMove s p t) : PumpEffect s t := by
  cases h with
  | stay => exact .refl s
  | commandRun h1 h2 hne hc hh =>
    have e := handler_effect hh
    obtain ⟨l1, l2, l3, l4, -⟩ := e.lines
    exact ⟨by rw [e.adpcm], fun h => by rwa [e.adpcm] at h, e.reg, e.bramLocked, e.fadeCd, e.fadeAd, e.fault, e.hpc,
      e.program, e.config, e.lastFrame, l1, l2, fun h => by rwa [l3] at h, fun h => by rwa [l4] at h⟩
  | _ => exact ⟨rfl, id, rfl, rfl, rfl, rfl, rfl, rfl, rfl, rfl, rfl, rfl, rfl, id, id⟩

/-- A phase step keeps BSY's latch, and raises BSY nowhere. -/
theorem PhaseMove.latches {s t : State} {p : Phase} (h : PhaseMove s p t) :
    t.bus.selected = s.bus.selected ∧ t.bus.lastRst = s.bus.lastRst ∧ (t.bus.bsy = true → s.bus.bsy = true) := by
  cases h with
  | commandRun h1 h2 hne hc hh =>
    obtain ⟨-, -, -, -, l5, l6, l7, -⟩ := (handler_effect hh).lines
    exact ⟨l6, l7, fun h => by rwa [l5] at h⟩
  | messageDone => exact ⟨rfl, rfl, nofun⟩
  | _ => exact ⟨rfl, rfl, id⟩

/-- A pass that raises nothing: its line passes, then one phase step or none. -/
theorem pass_cases {s t : State} (h : pass s = .ok t) :
    ((linePasses s).bus.bsy = true ∧ (linePasses s).bus.atn = false ∧
      PhaseMove (linePasses s) (phaseOf (linePasses s).bus) t) ∨
    (((linePasses s).bus.bsy && !(linePasses s).bus.atn) = false ∧ t = linePasses s) := by
  simp only [pass, phasePass] at h
  split at h
  · rename_i hb
    simp only [Bool.and_eq_true, Bool.not_eq_true'] at hb
    exact .inl ⟨hb.1, hb.2, phaseStep_moves h⟩
  · rename_i hb
    cases h
    exact .inr ⟨Bool.eq_false_of_not_eq_true hb, rfl⟩

theorem pass_effect {s t : State} (h : pass s = .ok t) : PumpEffect s t := by
  rcases pass_cases h with ⟨-, -, hm⟩ | ⟨-, rfl⟩
  · exact (linePasses_pumpEffect s).trans hm.pumpEffect
  · exact linePasses_pumpEffect s

theorem pumpUpTo_effect {n : Nat} {s t : State} (h : pumpUpTo n s = .ok t) : PumpEffect s t := by
  induction n generalizing s with
  | zero => cases h
  | succ n ih =>
    simp only [pumpUpTo] at h
    split at h
    · cases h
    · rename_i u hu
      split at h
      · cases h; exact pass_effect hu
      · exact (pass_effect hu).trans (ih h)

/-- Everything a pump leaves alone. -/
theorem pump_effect {s t : State} (h : pump s = .ok t) : PumpEffect s t := pumpUpTo_effect h

/-! ## The key of a pass (log 13) -/

theorem PhaseMove.eq_of_key {s t : State} {p : Phase} (h : PhaseMove s p t) (hk : busKey t.bus = busKey s.bus) :
    t = s := by
  simp only [busKey, BusKey.mk.injEq, List.cons.injEq, and_true] at hk
  obtain ⟨⟨-, -, -, -, -, k6, -, -, -, -, -, -, k13, k14, k15⟩, k16, k17, k18, k19⟩ := hk
  cases h with
  | stay => rfl
  | commandByte h1 => simp at k16
  | commandMore h1 => simp [h1] at k6
  | commandRun h1 h2 hne hc hh =>
    rw [(handler_effect hh).lines.2.2.2.2.2.2.2.1] at k16
    simp only [List.length_nil] at k16
    exact absurd (List.length_eq_zero_iff.mp k16.symm) hne
  | statusTaken h1 => simp [h1] at k6
  | statusMessage h1 => simp [h1] at k6
  | statusOnly h1 h2 h3 => simp [h3] at k13
  | messageTaken h1 => simp [h1] at k6
  | messageDone h1 h2 h3 => simp [h3] at k14
  | dataTaken h1 => simp [h1] at k6
  | dataPlaced h1 => simp [h1] at k6
  | dataWaits h1 h2 h3 h4 h5 => exact absurd k19 h5
  | dataDone h1 => simp [h1] at k6

theorem release_select_selected (s : State) :
    (select (busRelease s)).bus.selected = (s.bus.sel || (s.bus.bsy && s.bus.selected)) := by
  unfold select busRelease
  cases h1 : s.bus.sel <;> cases h2 : s.bus.bsy <;> cases h3 : s.bus.selected <;> simp [h1, h2, h3]

/-- Line passes that keep the selection latch, with no edge of RST, did nothing. -/
theorem quiet_lines {s : State} (h1 : s.bus.rst = s.bus.lastRst)
    (h : (linePasses s).bus.selected = s.bus.selected) :
    (!s.bus.sel && !s.bus.bsy && s.bus.selected) = false ∧ (s.bus.sel && !s.bus.selected) = false := by
  rw [linePasses, resetEdge_of_eq h1, release_select_selected] at h
  revert h
  generalize s.bus.sel = a, s.bus.bsy = b, s.bus.selected = c
  revert a b c
  decide

/-- A pass that leaves the key alone leaves the whole state alone, so comparing keys is comparing states (40_bus_phases.md R140). -/
theorem pass_key {s t : State} (h : pass s = .ok t) (hk : busKey t.bus = busKey s.bus) : t = s := by
  have hl := linePasses_effect s
  have hkeep : t.bus.selected = (linePasses s).bus.selected ∧ t.bus.lastRst = (linePasses s).bus.lastRst := by
    rcases pass_cases h with ⟨-, -, hm⟩ | ⟨-, rfl⟩
    · exact ⟨hm.latches.1, hm.latches.2.1⟩
    · exact ⟨rfl, rfl⟩
  have hk' := hk
  simp only [busKey, BusKey.mk.injEq, List.cons.injEq, and_true] at hk'
  obtain ⟨⟨-, -, -, -, -, -, -, -, -, k10, k11, -⟩, -⟩ := hk'
  have h1 : s.bus.rst = s.bus.lastRst := by rw [← k11, hkeep.2, hl.lastRst]
  have hsel : (linePasses s).bus.selected = s.bus.selected := by rw [← hkeep.1, k10]
  obtain ⟨h2, h3⟩ := quiet_lines h1 hsel
  have hs := linePasses_of_quiet h1 h2 h3
  rcases pass_cases h with ⟨-, -, hm⟩ | ⟨-, ht⟩
  · rw [hs] at hm
    exact hm.eq_of_key hk
  · rw [ht, hs]

/-! ## The result of a pump -/

theorem pumpUpTo_atRest {n : Nat} {s t : State} (h : pumpUpTo n s = .ok t) : AtRest t := by
  induction n generalizing s with
  | zero => cases h
  | succ n ih =>
    simp only [pumpUpTo] at h
    split at h
    · cases h
    · rename_i u hu
      split at h
      · rename_i hk
        cases h
        have := pass_key hu hk
        subst this
        exact hu
      · exact ih h

/-- A pump ends at its fixed point (40_bus_phases.md R140). -/
theorem pump_atRest {s t : State} (h : pump s = .ok t) : AtRest t := pumpUpTo_atRest h

/-- A pump at rest changes nothing. -/
theorem pump_of_atRest {s : State} (h : AtRest s) : pump s = .ok s := by
  simp only [AtRest] at h
  simp only [pump, pumpUpTo, h, if_true]

/-- One pass, then the pump from there: the pump of a state that is not at rest. -/
theorem pumpUpTo_succ_of_ne {n : Nat} {s t : State} (h : pass s = .ok t) (hk : busKey t.bus ≠ busKey s.bus) :
    pumpUpTo (n + 1) s = pumpUpTo n t := by
  simp only [pumpUpTo, h, hk, if_false]

/-- One pass that reaches the fixed point. -/
theorem pump_of_pass {s t : State} (h : pass s = .ok t) (ht : AtRest t) : pump s = .ok t := by
  simp only [AtRest] at ht
  by_cases hk : busKey t.bus = busKey s.bus
  · have := pass_key h hk
    subst this
    exact pump_of_atRest ht
  · simp only [pump, pumpUpTo, h, ht, hk, if_false, if_true]

/-- Two passes that reach the fixed point. -/
theorem pump_of_two_passes {s t u : State} (h : pass s = .ok t) (h2 : pass t = .ok u) (hu : AtRest u) :
    pump s = .ok u := by
  simp only [AtRest] at hu
  by_cases hk : busKey t.bus = busKey s.bus
  · have := pass_key h hk
    subst this
    exact pump_of_pass h2 hu
  · by_cases hk2 : busKey u.bus = busKey t.bus
    · have := pass_key h2 hk2
      subst this
      simp only [pump, pumpUpTo, h, h2, hk, if_false, if_true]
    · simp only [pump, pumpUpTo, h, h2, hu, hk, hk2, if_false, if_true]

/-- A phase step that changed nothing found its phase quiet. -/
theorem PhaseMove.quiet_of_eq {s t : State} {p : Phase} (h : PhaseMove s p t) (e : t = s) :
    quietPhase s.bus p = true := by
  cases h with
  | stay hq => exact hq
  | commandByte h1 => have := congrArg (fun x => x.bus.req) e; simp [h1] at this
  | commandMore h1 => have := congrArg (fun x => x.bus.req) e; simp [h1] at this
  | commandRun h1 h2 hne hc hh =>
    have := (handler_effect hh).lines.2.2.2.2.2.2.2.1
    rw [e] at this
    exact absurd this hne
  | statusTaken h1 => have := congrArg (fun x => x.bus.req) e; simp [h1] at this
  | statusMessage h1 => have := congrArg (fun x => x.bus.req) e; simp [h1] at this
  | statusOnly h1 h2 h3 => have := congrArg (fun x => x.bus.statusSent) e; simp [h3] at this
  | messageTaken h1 => have := congrArg (fun x => x.bus.req) e; simp [h1] at this
  | messageDone h1 h2 h3 => have := congrArg (fun x => x.bus.messageSent) e; simp [h3] at this
  | dataTaken h1 => have := congrArg (fun x => x.bus.req) e; simp [h1] at this
  | dataPlaced h1 => have := congrArg (fun x => x.bus.req) e; simp [h1] at this
  | dataWaits h1 h2 h3 h4 h5 => exact absurd (congrArg (fun x => x.bus.irqStatus) e) h5
  | dataDone h1 => have := congrArg (fun x => x.bus.req) e; simp [h1] at this

/-- A state at rest is quiet: the converse of `atRest_of_quiet`. -/
theorem quiet_of_atRest {s : State} (h : AtRest s) : quietBus s.bus = true := by
  have hp := h
  simp only [AtRest] at h
  have hl := linePasses_effect s
  have hkeep : s.bus.selected = (linePasses s).bus.selected ∧ s.bus.lastRst = (linePasses s).bus.lastRst := by
    rcases pass_cases h with ⟨-, -, hm⟩ | ⟨-, ht⟩
    · exact ⟨hm.latches.1, hm.latches.2.1⟩
    · rw [← ht]; exact ⟨rfl, rfl⟩
  have h1 : s.bus.rst = s.bus.lastRst := by rw [hkeep.2, hl.lastRst]
  obtain ⟨h2, h3⟩ := quiet_lines h1 hkeep.1.symm
  have hs := linePasses_of_quiet h1 h2 h3
  have h4 : (s.bus.bsy = true ∧ s.bus.atn = false → quietPhase s.bus (phaseOf s.bus) = true) := by
    rintro ⟨hb, ha⟩
    rcases pass_cases h with ⟨-, -, hm⟩ | ⟨hn, -⟩
    · rw [hs] at hm
      exact hm.quiet_of_eq rfl
    · rw [hs] at hn
      simp [hb, ha] at hn
  simp only [quietBus, h1, decide_true, h2, h3, Bool.not_false, Bool.true_and]
  cases hb : s.bus.bsy with
  | false => rfl
  | true =>
    cases ha : s.bus.atn with
    | true => rfl
    | false => simpa using h4 ⟨hb, ha⟩

/-- At rest is a condition on the bus alone. -/
theorem atRest_iff (s : State) : AtRest s ↔ quietBus s.bus = true := ⟨quiet_of_atRest, atRest_of_quiet⟩

/-- A state with the same bus is at rest as well. -/
theorem atRest_congr {s t : State} (h : t.bus = s.bus) (hs : AtRest s) : AtRest t := by
  rw [atRest_iff] at hs ⊢
  rwa [h]

/-- A host write whose effect leaves the bus alone, from rest, is its effect (44_host_registers.md R316). -/
theorem hostWrite_of_atRest {s t : State} (hs : AtRest s) (hb : t.bus = s.bus) : hostWrite (.ok t) s = .next t := by
  have := pump_of_atRest (atRest_congr hb hs)
  simp only [hostWrite, Except.bind, this, settle]

/-- A host write whose effect pumps to u. -/
theorem hostWrite_ok {e s u : State} (h : pump e = .ok u) : hostWrite (.ok e) s = .next u := by
  simp only [hostWrite, Except.bind, h, settle]

/-- A host write whose pump raises: the fault is taken from the state before the write (60_exceptions.md R352). -/
theorem hostWrite_error {e s : State} {f : Fault} (h : pump e = .error f) :
    hostWrite (.ok e) s = .next { s with fault := some f } := by
  simp only [hostWrite, Except.bind, h, settle, takeFault]

/-- The pass of a busy bus with quiet lines is its phase step. -/
theorem pass_of_phase {s : State} (h1 : s.bus.rst = s.bus.lastRst)
    (h2 : (!s.bus.sel && !s.bus.bsy && s.bus.selected) = false) (h3 : (s.bus.sel && !s.bus.selected) = false)
    (h4 : s.bus.bsy = true) (h5 : s.bus.atn = false) : pass s = phaseStep (phaseOf s.bus) s := by
  simp only [pass, linePasses_of_quiet h1 h2 h3, phasePass, h4, h5, Bool.not_false, Bool.and_self, if_true]

/-- A pump that a raise ends in its first pass. -/
theorem pump_of_pass_error {s : State} {f : Fault} (h : pass s = .error f) : pump s = .error f := by
  simp only [pump, pumpUpTo, h]

/-- What the invariant of the bus says of the pump: no line pass moves. -/
theorem BusInv.quietLines {s : State} (h : BusInv s) :
    (!s.bus.sel && !s.bus.bsy && s.bus.selected) = false ∧ (s.bus.sel && !s.bus.selected) = false := by
  simp only [h.noSel, h.selectedBusy]
  cases s.bus.bsy <;> exact ⟨rfl, rfl⟩

/-- The invariant of the bus makes the phase of a busy bus quiet. -/
theorem BusInv.quietPhase {s : State} (h : BusInv s) (hb : s.bus.bsy = true) :
    quietPhase s.bus (phaseOf s.bus) = true := by
  have hq := quiet_of_atRest h.atRest
  simp only [quietBus, Bool.and_eq_true, hb, h.noAtn, Bool.not_false, Bool.and_self, Bool.not_true,
    Bool.false_or] at hq
  exact hq.2

end Sys2Proof.Machine
end

