-- ==== Sys2Proof/Laws/Steps.lean ====
section
/-! SUPPORT. What the outcome of an instruction can be, from the result of its rule; what a step can be; and what the accessor and the
loads of data do. -/

namespace Sys2Proof.Machine

/-- An outcome of a rule is always a next state: the one it computes, or the fault taken from the state it found. -/
theorem settle_next {s t : State} {r : Result} (h : settle s r = .next t) :
    r = .ok t ∨ ∃ f, r = .error f ∧ t = takeFault s f := by
  unfold settle at h
  split at h
  · cases h; exact .inl rfl
  · cases h; exact .inr ⟨_, rfl, rfl⟩

theorem settle_ok {s t : State} {r : Result} (h : r = .ok t) : settle s r = .next t := by rw [h]; rfl

theorem settle_error {s : State} {r : Result} {f : Fault} (h : r = .error f) : settle s r = .next (takeFault s f) := by
  rw [h]; rfl

/-- An agent that gives a next state was enabled, and its rule settled. -/
theorem agentStep_next {a : Agent} {r : Result} {s t : State} (h : agentStep a r s = .next t) :
    agentEnabled s a = true ∧ settle s r = .next t := by
  unfold agentStep at h
  split at h
  · exact ⟨‹_›, h⟩
  · cases h

theorem agentStep_of_enabled {a : Agent} {r : Result} {s : State} (h : agentEnabled s a = true) :
    agentStep a r s = settle s r := by
  unfold agentStep; rw [if_pos h]

/-- A host write is its effect and a pump, or a fault taken from the state it found. -/
theorem hostWrite_next {e : Result} {s t : State} (h : hostWrite e s = .next t) :
    (∃ u, e = .ok u ∧ pump u = .ok t) ∨ ∃ f, t = takeFault s f := by
  unfold hostWrite at h
  rcases settle_next h with h | ⟨f, -, h⟩
  · cases e with
    | error f => cases h
    | ok u => exact .inl ⟨u, rfl, h⟩
  · exact .inr ⟨f, h⟩

/-- A step that ends in a next state has no fault there. -/
theorem finishStep_next {o : Host.Outcome State Fault Refusal} {t : State} (h : finishStep o = .next t) :
    ∃ u, o = .next u ∧ u.fault = none ∧ t = finishState u := by
  unfold finishStep at h
  split at h
  · split at h
    · cases h
    · cases h; exact ⟨_, rfl, ‹_›, rfl⟩
  · cases h
  · cases h

/-- A step that ends in a fault ran an instruction that took it. -/
theorem finishStep_fault {o : Host.Outcome State Fault Refusal} {f : Fault} (h : finishStep o = .fault f) :
    (∃ u, o = .next u ∧ u.fault = some f) ∨ o = .fault f := by
  unfold finishStep at h
  split at h
  · split at h
    · cases h; exact .inl ⟨_, rfl, ‹_›⟩
    · cases h
  · cases h; exact .inr rfl
  · cases h

/-- Everything a next state of a step can be: that of the decoded instruction, which took no fault, finished. -/
theorem step_next {s t : State} (h : step s = .next t) :
    s.fault = none ∧ ∃ w i u, fetchWord s = some w ∧ decodeHostOp w = .ok i ∧ exec i s = .next u ∧ u.fault = none ∧
      t = finishState u := by
  unfold step at h
  split at h
  · cases h
  · split at h
    · cases h
    · split at h
      · obtain ⟨u, hu, hf, -⟩ := finishStep_next h
        cases hu; cases hf
      · obtain ⟨u, hu, hf, ht⟩ := finishStep_next h
        exact ⟨‹_›, _, _, u, ‹_›, ‹_›, hu, hf, ht⟩

/-- Everything a fault of a step can be: that of an illegal word, or one the decoded instruction took. -/
theorem step_fault {s : State} {f : Fault} (h : step s = .fault f) :
    s.fault = none ∧ ∃ w, fetchWord s = some w ∧
      (((∃ e, decodeHostOp w = .error e) ∧ f = .illegalHostOp) ∨
       ∃ i, decodeHostOp w = .ok i ∧ ((∃ u, exec i s = .next u ∧ u.fault = some f) ∨ exec i s = .fault f)) := by
  unfold step at h
  split at h
  · cases h
  · split at h
    · cases h
    · split at h
      · rcases finishStep_fault h with ⟨u, hu, hf⟩ | h
        · cases hu
          have hf : some Fault.illegalHostOp = some f := hf
          cases hf
          exact ⟨‹_›, _, ‹_›, .inl ⟨⟨_, ‹_›⟩, rfl⟩⟩
        · cases h
      · exact ⟨‹_›, _, ‹_›, .inr ⟨_, ‹_›, finishStep_fault h⟩⟩

/-- The state a faulting step leaves is the one it found, with the fault recorded. -/
theorem stateAfter_fault {s : State} {f : Fault} (h : step s = .fault f) : stateAfter s = { s with fault := some f } := by
  unfold stateAfter; rw [h]; rfl

theorem stateAfter_next {s t : State} (h : step s = .next t) : stateAfter s = t := by
  unfold stateAfter; rw [h]

/-- The accessor leaves alone what a pump leaves alone: its ACK pulse ends where it began, since a byte is offered only with ACK low. -/
theorem accessor_effect {s t : State} (h : accessor s = .ok t) : PumpEffect s t := by
  unfold accessor at h
  split at h
  · rename_i hb
    obtain ⟨u, hu, ht⟩ := Except.bind_eq_ok h
    have hack : s.bus.ack = false := by
      cases hc : s.bus.ack with
      | false => rfl
      | true => simp [byteOffered, hc] at hb
    have e1 := pump_effect hu
    have e2 := pump_effect ht
    exact
      { adpcm := by
          have h1 : u.adpcm = { s.adpcm with dmaTimerArmed := u.adpcm.dmaTimerArmed } := e1.adpcm
          have h2 : t.adpcm = { u.adpcm with dmaTimerArmed := t.adpcm.dmaTimerArmed } := e2.adpcm
          rw [h2, h1]
        dmaTimer := fun k => e1.dmaTimer (e2.dmaTimer k)
        reg := e2.reg.trans e1.reg
        bramLocked := e2.bramLocked.trans e1.bramLocked
        fadeCd := e2.fadeCd.trans e1.fadeCd
        fadeAd := e2.fadeAd.trans e1.fadeAd
        fault := e2.fault.trans e1.fault
        hpc := e2.hpc.trans e1.hpc
        program := e2.program.trans e1.program
        config := e2.config.trans e1.config
        lastFrame := e2.lastFrame.trans e1.lastFrame
        ack := e2.ack.trans hack.symm
        rst := e2.rst.trans e1.rst
        sel := fun k => e1.sel (e2.sel k)
        atn := fun k => e1.atn (e2.atn k) }
  · cases h; exact .refl s

/-- n drawn bytes are n bytes. -/
theorem drawnBytes_length (n : Nat) : ∀ k, (drawnBytes k n).length = n := by
  induction n with
  | zero => intro k; rfl
  | succ n ih => intro k; simp [drawnBytes, ih]

/-- A sector that is read is 2048 bytes long. -/
theorem readSector_length {disc : Option Disc} {f : Frame} {bytes : List Byte} (h : readSector disc f = some bytes) :
    bytes.length = Config.sectorBytes := by
  unfold readSector at h
  split at h
  · cases h
  · split at h
    · split at h
      · split at h
        · cases h; assumption
        · cases h
      · cases h
    · cases h

/-- A sector tick delivers 2048 bytes. -/
theorem sectorBytes_length (s : State) : (sectorBytes s).length = Config.sectorBytes := by
  unfold sectorBytes
  split
  · exact readSector_length ‹_›
  · exact drawnBytes_length _ _

end Sys2Proof.Machine
end

