-- ==== Sys2Proof/Tests/Slice0.lean ====
section
/-! SUPPORT. Tests of one step each, with values from the spec's encodings and test vectors (95_test_vectors.md), and for every
statement with hypotheses a state that meets them. -/

namespace Sys2Proof.Tests

open Sys2Proof Sys2Proof.Machine

-- One theorem after another: each waits for the kernel's evaluation, and a thread apiece would fill the memory the check allows.
set_option Elab.async false

/-! ## Small states -/

/-- DISC_A of 95_test_vectors.md, with one readable sector. -/
def discA : Disc where
  tracks := [⟨0, 1000, .data⟩, ⟨1000, 4500, .audio⟩]
  sectors := [⟨5, List.replicate 2048 0x5A⟩]

def configA : Config := { Config.standard with disc := some discA }

/-- Power-on with DISC_A. -/
def onA : State := State.powerOn configA [] []

/-- Power-on with no disc. -/
def on : State := State.powerOn Config.standard [] []

/-- A busy bus: the phase by C/D, MSG and I/O, and the handshake by REQ and ACK. -/
def busy (cd msg io req ack : Bool) : State :=
  { onA.setReg 0x2 (if ack then 0x80 else 0x00) with
    bus.bsy := true, bus.selected := true, bus.cd := cd, bus.msg := msg, bus.io := io, bus.req := req, bus.ack := ack }

/-- The bus free with ACK held. -/
def freeAck : State := { onA.setReg 0x2 0x80 with bus.ack := true }

/-- A full command buffer. -/
def fullBuffer : List Byte := List.replicate 256 0x00

/-- Command phase, ACK high, with a buffer about to be dispatched. -/
def commandWith (c : List Byte) : State := { busy true false false false true with bus.commandBuffer := c }

/-- DataIn with two bytes in the buffer, of which `index` are taken. -/
def dataWith (index : Nat) (last req ack : Bool) : State :=
  { busy false false true req ack with
    bus.dataBuffer := [0x11, 0x22], bus.dataIndex := index, bus.dataSize := 2, bus.dataTransferred := last }

/-- The next state of an instruction; the state itself when there is none. -/
def after (i : Instr) (s : State) : State :=
  match exec i s with
  | .next t => t
  | _ => s

/-- The value the last read in the history gave. -/
def lastRead (s : State) : Option Byte :=
  match s.hist.getLast? with
  | some (.read _ v) => some v
  | _ => none

/-- The checks of BusInv that are about the fields alone. -/
def busChecks (s : State) : Bool :=
  let b := s.bus
  quietBus b && !b.sel && !b.atn && (b.lastRst == b.rst) && (b.selected == b.bsy) && (!b.req || b.bsy) &&
  (!b.bsy || b.cd || b.io) && (!(b.bsy && b.cd && b.msg) || b.io) && !(b.req && b.ack) &&
  (b.ack == (s.getReg 0x2)[7]) && (b.rst == (s.getReg 0x4)[1]) && decide (b.commandBuffer.length ≤ 256) &&
  decide (b.dataIndex ≤ b.dataSize) && decide (b.dataSize ≤ b.dataBuffer.length) && decide (b.dataSize ≤ 2048) &&
  decide (b.dataBuffer.length ≤ 8192) && (b.irqStatus &&& ~~~(irqReady ||| irqDone) == 0)

theorem busInv_of_checks {s : State} (h : busChecks s = true) : BusInv s := by
  simp only [busChecks, Bool.and_eq_true, Bool.not_eq_true', Bool.and_eq_false_iff, Bool.or_eq_true, beq_iff_eq, decide_eq_true_eq] at h
  obtain ⟨⟨⟨⟨⟨⟨⟨⟨⟨⟨⟨⟨⟨⟨⟨⟨h1, h2⟩, h3⟩, h4⟩, h5⟩, h6⟩, h7⟩, h8⟩, h9⟩, h10⟩, h11⟩, h12⟩, h13⟩, h14⟩, h15⟩, h16⟩, h17⟩ := h
  exact
    { atRest := atRest_of_quiet h1, noSel := h2, noAtn := h3, rstSeen := h4, selectedBusy := h5
      reqBusy := fun k => by rcases h6 with h6 | h6 <;> simp_all
      noDataOut := fun k => by rcases h7 with (h7 | h7) | h7 <;> simp_all
      noMessageOut := fun k1 k2 k3 => by rcases h8 with h8 | h8 <;> simp_all
      noReqAck := fun k => by rcases h9 with h9 | h9 <;> simp_all
      ackDriven := h10, rstDriven := h11, commandBytes := h12, indexInside := h13, sizeWritten := h14
      sizeBound := h15, bufferBound := h16, irqSources := h17 }

/-! ## Well-formedness and encodings (30_encoding.md) -/

/-- The one check of WellFormed: a WR 0xF word of the fade-program table is no instruction of the row WR 0xF. -/
theorem test_wf_refuses_fade_word : Instr.wf (.wr0xF 0x08) = false ∧ Instr.wf (.wr0xF 0x12) = true := by decide

/-- Word `0x0000 | r<<8` is RD r (R100). -/
theorem test_decode_reads :
    [0x0000#14, 0x0100#14, 0x0200#14, 0x0300#14, 0x0400#14, 0x0500#14, 0x0600#14, 0x0700#14,
     0x0800#14, 0x0900#14, 0x0A00#14, 0x0B00#14, 0x0C00#14, 0x0D00#14, 0x0E00#14, 0x0F00#14].map decodeHostOp =
    [.ok .rd0x0, .ok .rd0x1, .ok .rd0x2, .ok .rd0x3, .ok .rd0x4, .ok .rd0x5, .ok .rd0x6, .ok .rd0x7,
     .ok .rd0x8, .ok .rd0x9, .ok .rd0xA, .ok .rd0xB, .ok .rd0xC, .ok .rd0xD, .ok .rd0xE, .ok .rd0xF] := rfl

/-- Word `0x1000 | r<<8 | v` is WR r, v (R100). -/
theorem test_decode_writes :
    [0x105A#14, 0x1112#14, 0x1280#14, 0x13FF#14, 0x1402#14, 0x1501#14, 0x1601#14, 0x1785#14,
     0x1800#14, 0x1910#14, 0x1AAA#14, 0x1B02#14, 0x1CFF#14, 0x1D58#14, 0x1EF5#14, 0x1F07#14].map decodeHostOp =
    [.ok (.wr0x0 0x5A), .ok (.wr0x1 0x12), .ok (.wr0x2 0x80), .ok (.wr0x3 0xFF), .ok (.wr0x4 0x02), .ok (.wr0x5 0x01),
     .ok (.wr0x6 0x01), .ok (.wr0x7 0x85), .ok (.wr0x8 0x00), .ok (.wr0x9 0x10), .ok (.wr0xA 0xAA), .ok (.wr0xB 0x02),
     .ok (.wr0xC 0xFF), .ok (.wr0xD 0x58), .ok (.wr0xE 0xF5), .ok (.wr0xF 0x07)] := rfl

/-- The fade programs, by the low nibble of a WR 0xF word (43_fade.md R272). -/
theorem test_decode_fades :
    [0x1F10#14, 0x1F01#14, 0x1F08#14, 0x1F09#14, 0x1F0A#14, 0x1FFC#14, 0x1F0D#14, 0x1F0E#14].map decodeHostOp =
    [.ok (.fade0x0 0x1), .ok (.fade0x1 0x0), .ok (.fade0x8 0x0), .ok (.fade0x9 0x0), .ok (.fade0xA 0x0),
     .ok (.fade0xC 0xF), .ok (.fade0xD 0x0), .ok (.fade0xE 0x0)] := rfl

/-- Word `0x2000 | e<<8 | d` is EV e, d (R102), and kind 11 is reserved (R101). -/
theorem test_decode_events :
    [0x2000#14, 0x2100#14, 0x2200#14, 0x2300#14, 0x2400#14, 0x2500#14, 0x2600#14, 0x2700#14, 0x2701#14,
     0x3ABC#14].map decodeHostOp =
    [.ok .evTickSector, .ok .evTickDma, .ok .evTickNibble, .ok .evFadeCdIn, .ok .evFadeCdOut, .ok .evFadeAdIn,
     .ok .evFadeAdOut, .ok (.evPollAudio false), .ok (.evPollAudio true), .ok (.reserved 0xABC)] := rfl

/-- V-ENC-6 to V-ENC-9: the illegal words that no row has. -/
theorem test_decode_refuses :
    [0x0001#14, 0x2800#14, 0x2301#14, 0x2702#14].map decodeHostOp =
    [.error .readWithData, .error .noSuchEvent, .error .eventWithData, .error .badPollAnswer] := rfl

/-- V-ENC-10, V-ENC-11 and the ten-byte layouts (R107, R108). -/
theorem test_decode_commands :
    [[0x00, 0xFF, 0, 0, 0, 0], [0x08, 0x1F, 0xFF, 0xFF, 0xFF, 0x00], [0x08, 0xE1, 0x00, 0x00, 0x01, 0x00],
     [0xD8, 0x03, 0, 0x00, 0x01, 0xF4, 0, 0, 0, 0x3F], [0xD9, 0x02, 0x00, 0x07, 0x01, 0, 0, 0, 0, 0x7F],
     [0xDA, 0, 0, 0, 0, 0, 0, 0, 0, 0], [0xDD, 0, 0, 0, 0, 0, 0, 0, 0, 0],
     [0xDE, 0x02, 0xAA, 0, 0, 0, 0, 0, 0, 0]].map (fun c => decode (.cdb c)) =
    [.ok .testUnitReady, .ok (.read6 0x1FFFFF 255), .ok (.read6 0x010000 1), .ok (.setAudioStart 3 (.lba 500)),
     .ok (.setAudioEnd 2 (.msf 0x00 0x07 0x01)), .ok .pause, .ok .getSubchannelQ, .ok (.getDirInfo 0x02 0xAA)] := rfl

/-- The rows of GET-DIR-INFO by c[1] (R114) and of the audio address by c[9] (R109). -/
theorem test_decode_refining_rows :
    [decode (.cdbSub [0xDE, 0x00, 0, 0, 0, 0, 0, 0, 0, 0]), decode (.cdbSub [0xDE, 0x01, 0, 0, 0, 0, 0, 0, 0, 0]),
     decode (.cdbSub [0xDE, 0x02, 0x03, 0, 0, 0, 0, 0, 0, 0]), decode (.cdbSub [0xDE, 0x03, 0, 0, 0, 0, 0, 0, 0, 0]),
     decode (.cdbAddr [0xD8, 0x01, 0, 0x00, 0x03, 0xE8, 0, 0, 0, 0x00]),
     decode (.cdbAddr [0xD9, 0x01, 0x01, 0x02, 0x03, 0, 0, 0, 0, 0x40]),
     decode (.cdbAddr [0xD8, 0x00, 0x02, 0, 0, 0, 0, 0, 0, 0x80]),
     decode (.cdbAddr [0xD9, 0x03, 0, 0, 0, 0, 0, 0, 0, 0xC0])] =
    [.ok .dirInfoTracks, .ok .dirInfoDiscSize, .ok (.dirInfoTrackStart 0x03), .error (.noSuchSubFunction 0x03),
     .ok (.audioAddrLba .start 1 1000), .ok (.audioAddrMsf .finish 1 0x01 0x02 0x03),
     .ok (.audioAddrTrack .start 0 0x02), .ok (.audioAddrReserved .finish 3)] := rfl

/-- The bits of table rows, first word lowest, lead to the rows' instructions. -/
theorem test_decode_table_words :
    decodeTableWord 16 0x1D58 = some (.wr0xD 0x58) ∧ decodeTableWord 8 0xDA = some .pause ∧
    decodeTableWord 16 0xDE01 = some .dirInfoDiscSize ∧ decodeTableWord 8 0x80 = some (.audioAddrTrack .start 0 0) ∧
    decodeTableWord 16 0x2702 = none := ⟨rfl, rfl, rfl, rfl, rfl⟩

/-- The encoder writes V-ENC-2 and V-ENC-4. -/
theorem test_encode_words : encode (.wr0xD 0x58) = .hostOp 0x1D58 ∧ encode (.evPollAudio true) = .hostOp 0x2701 := ⟨rfl, rfl⟩

/-- V-ENC-18 to V-ENC-20. -/
theorem test_bcd : bcdDec 0x1A = 20 ∧ bcdEnc 99 = 0x99 ∧ bcdEnc 100 = 0xA0 ∧ msf 449999 = [0x99, 0x59, 0x74] := by decide

/-! ## One step of each instruction -/

/-- V-BUS-1 read back: BSY, REQ and C/D. -/
theorem test_rd0x0 : lastRead (after .rd0x0 (busy true false false true false)) = some 0xD0 := by decide +kernel

theorem test_rd0x1 : lastRead (after .rd0x1 { on with bus.dataReg := 0x12 }) = some 0x12 := by decide +kernel

/-- V-REG-11. -/
theorem test_rd0x2 : lastRead (after .rd0x2 (on.setReg 0x2 0xE3)) = some 0xE3 := by decide +kernel

/-- V-REG-4: the read locks BRAM. -/
theorem test_rd0x3 : (after .rd0x3 { on with bramLocked := false }).bramLocked = true := by decide +kernel

theorem test_rd0x4 : lastRead (after .rd0x4 (on.setReg 0x4 0x02)) = some 0x02 := by decide +kernel

/-- V-REG-10: a drawn byte, which no value is claimed of. -/
theorem test_rd0x5 : (after .rd0x5 on).draws = 1 ∧ (after .rd0x5 on).bus = on.bus := by decide +kernel

theorem test_rd0x6 : (after .rd0x6 on).draws = 1 ∧ (after .rd0x6 on).bus = on.bus := by decide +kernel

/-- V-REG-2 and V-REG-3. -/
theorem test_rd0x7 : lastRead (after .rd0x7 on) = some 0x00 ∧
    lastRead (after .rd0x7 (after (.wr0x7 0x85) on)) = some 0x85 := by decide +kernel

/-- V-BUS-11: no byte is offered in Command phase. -/
theorem test_rd0x8_command : (after .rd0x8 (busy true false false true false)).bus = (busy true false false true false).bus := by
  decide +kernel

/-- The last byte taken drains the buffer: OK status and IRQ_DONE (R152). -/
theorem test_rd0x8_drains : let t := after .rd0x8 (dataWith 2 true true false)
    (t.bus.cd, t.bus.io, t.bus.req, t.bus.irqStatus, t.bus.dataTransferred) = (true, true, true, 0x20, false) := by decide +kernel

/-- V-REG-9. -/
theorem test_rd0x9 : lastRead (after .rd0x9 (on.setReg 0x9 0xAB)) = some 0xAB := by decide +kernel

/-- V-ADPCM-2: a holdoff reads 0x00 and counts down. -/
theorem test_rd0xA : let t := after .rd0xA { on with adpcm.readHoldoff := 2, adpcm.readPointer := 0x100 }
    (lastRead t, t.adpcm.readHoldoff, t.adpcm.readPointer) = (some 0x00, 1, 0x100) := by decide +kernel

/-- The read pointer wraps. -/
theorem test_rd0xA_wraps : let t := after .rd0xA { on with adpcm.ram := [(65535, 0x77)], adpcm.readPointer := 0xFFFF }
    (lastRead t, t.adpcm.readPointer) = (some 0x77, 0) := by decide +kernel

theorem test_rd0xB : lastRead (after .rd0xB (on.setReg 0xB 0x02)) = some 0x02 := by decide +kernel

/-- V-REG-7 and V-ADPCM-9. -/
theorem test_rd0xC : lastRead (after .rd0xC on) = some 0x01 ∧
    lastRead (after .rd0xC (after (.wr0xB 0x02) on)) = some 0x05 := by decide +kernel

theorem test_rd0xD : lastRead (after .rd0xD (on.setReg 0xD 0x20)) = some 0x20 := by decide +kernel

theorem test_rd0xE : lastRead (after .rd0xE (on.setReg 0xE 0x0F)) = some 0x0F := by decide +kernel

theorem test_rd0xF : lastRead (after .rd0xF (on.setReg 0xF 0x07)) = some 0x07 := by decide +kernel

/-- V-BUS-1. -/
theorem test_wr0x0_selects : let b := (after (.wr0x0 0x5A) on).bus
    (b.selected, b.bsy, b.req, b.cd, b.io, b.msg, b.sel) = (true, true, true, true, false, false, false) := by decide +kernel

/-- V-HAZ-4 and V-ADPCM-12. -/
theorem test_wr0x0_clears :
    let s : State := { busy true false false true false with bus.irqStatus := 0x60, adpcm.dmaTimerArmed := true }
    let t := after (.wr0x0 0x00) s
    (t.bus.irqStatus, t.adpcm.dmaTimerArmed) = (0x00, false) := by decide +kernel

/-- P7 line 2. -/
theorem test_wr0x1 : (after (.wr0x1 0x12) on).bus.dataReg = 0x12 := by decide +kernel

/-- V-BUS-3. -/
theorem test_wr0x2_takes_byte : let b := (after (.wr0x2 0x80) { busy true false false true false with bus.dataReg := 0x08 }).bus
    (b.commandBuffer, b.req, b.ack) = ([0x08], false, true) := by decide +kernel

/-- V-FLT-1: the unknown opcode faults, and the step leaves nothing else. -/
theorem test_wr0x2_unknown_opcode :
    after (.wr0x2 0x00) (commandWith [0x12]) = { commandWith [0x12] with fault := some (.unknownOpcode 0x12) } := by decide +kernel

/-- V-REG-8. -/
theorem test_wr0x3 : after (.wr0x3 0xFF) on = on := by decide +kernel

/-- V-BUS-7: the reset frees the bus and keeps the command buffer. -/
theorem test_wr0x4_reset : let t := after (.wr0x4 0x02) { busy true false false true false with bus.commandBuffer := [0x08] }
    (t.bus.bsy, t.bus.selected, t.bus.lastRst, t.bus.commandBuffer, t.hist.getLast?) =
      (false, false, true, [0x08], some .playerStop) := by decide +kernel

/-- V-BUS-8: no edge. -/
theorem test_wr0x4_no_edge : (after (.wr0x4 0x02) (after (.wr0x4 0x02) on)).hist = (after (.wr0x4 0x02) on).hist := by decide +kernel

theorem test_wr0x5 : (after (.wr0x5 0x99) on).getReg 0x5 = 0x99 := by decide +kernel

theorem test_wr0x6 : (after (.wr0x6 0x99) on).getReg 0x6 = 0x99 := by decide +kernel

/-- Bit 7 unlocks BRAM, and its absence leaves the lock (R305). -/
theorem test_wr0x7 : (after (.wr0x7 0x80) on).bramLocked = false ∧ (after (.wr0x7 0x7F) on).bramLocked = true := by decide +kernel

/-- Registers 0x9 and 0x8 are the high and the low byte of the address (R307, R308). -/
theorem test_wr0x8_wr0x9 : addr16 (after (.wr0x9 0x12) (after (.wr0x8 0x34) on)) = 0x1234 := by decide +kernel

/-- V-ADPCM-1: the second byte stands at address 0. -/
theorem test_wr0xA_wraps : let t := after (.wr0xA 0x22) (after (.wr0xA 0x11) { on with adpcm.writePointer := 0xFFFF })
    (t.adpcm.ram, t.adpcm.writePointer) = ([(0, 0x22), (65535, 0x11)], 1) := by decide +kernel

/-- V-ADPCM-3: the holdoff discards. -/
theorem test_wr0xA_holdoff : let t := after (.wr0xA 0x55) { on with adpcm.writeHoldoff := 1 }
    (t.adpcm.ram, t.adpcm.writeHoldoff) = ([], 0) := by decide +kernel

/-- V-ADPCM-8 and V-ADPCM-9. -/
theorem test_wr0xB : (after (.wr0xB 0x02) on).adpcm.dmaTimerArmed = true ∧
    (after (.wr0xB 0xFC) on).adpcm.dmaTimerArmed = false := by decide +kernel

/-- V-REG-8. -/
theorem test_wr0xC : after (.wr0xC 0xFF) on = on := by decide +kernel

/-- V-ADPCM-5: every bit on its own. -/
theorem test_wr0xD_addresses : let a := (after (.wr0xD 0x1B) ((on.setReg 0x8 0x34).setReg 0x9 0x12)).adpcm
    (a.lengthRegister, a.readPointer, a.writePointer, a.readHoldoff, a.writeHoldoff) = (0x1234, 0x1234, 0x1234, 2, 1) := by
  decide +kernel

/-- V-ADPCM-7: play start uses the values before the address sets. -/
theorem test_wr0xD_play : let a := (after (.wr0xD 0x58) ((on.setReg 0x8 0x00).setReg 0x9 0x01)).adpcm
    (a.playing, a.playStartAddress, a.playEndAddress, a.lengthRegister, a.readPointer) = (true, 0, 0, 0x100, 0x100) := by
  decide +kernel

/-- V-RATE-1. -/
theorem test_wr0xE : (after (.wr0xE 0xF5) on).hist = [.clockDivider 11] ∧ (after (.wr0xE 0x00) on).adpcm.clockDivider = 16 := by
  decide +kernel

/-- V-FADE-4: a flag, and no fade change. -/
theorem test_wr0xF_unknown : let t := after (.wr0xF 0x0B) on
    (t.fadeCd, t.hist, t.getReg 0xF) = (FadeChannel.powerOn, [.unknownFadeProgram 0xB], 0x0B) := by decide +kernel

/-- V-FADE-6: the byte 0x10 is program 0. -/
theorem test_fade0x0 : let t := after (.fade0x0 0x1) on
    (t.fadeCd.volume, t.fadeAd.fadeIn, t.getReg 0xF) = (0, .armed .us100, 0x10) := by decide +kernel

/-- P4 line 1. -/
theorem test_fade0x1 : let t := after (.fade0x1 0x0) on
    (t.fadeCd, t.fadeAd) = (⟨0, .armed .us100, .off⟩, FadeChannel.powerOn) := by decide +kernel

/-- V-FADE-2. -/
theorem test_fade0x8 : let t := after (.fade0x8 0x0) on
    (t.fadeCd, t.fadeAd) = (⟨100, .off, .armed .us1500⟩, ⟨0, .armed .us100, .off⟩) := by decide +kernel

/-- V-REG-6 before its reset. -/
theorem test_fade0x9 : (after (.fade0x9 0x0) on).fadeCd = ⟨100, .off, .armed .us5000⟩ := by decide +kernel

/-- V-FADE-9. -/
theorem test_fade0xA : (after (.fade0xA 0x0) on).fadeAd = ⟨100, .off, .armed .us5000⟩ := by decide +kernel

theorem test_fade0xC : let t := after (.fade0xC 0x0) on
    (t.fadeCd, t.fadeAd) = (⟨100, .off, .armed .us1500⟩, ⟨0, .armed .us100, .off⟩) := by decide +kernel

/-- V-FADE-11. -/
theorem test_fade0xD : (after (.fade0xD 0x0) (after (.fade0x1 0x0) on)).fadeCd = ⟨100, .off, .armed .us1500⟩ := by decide +kernel

/-- V-FADE-10. -/
theorem test_fade0xE : let t := after (.fade0xE 0x0) on
    (t.fadeCd, t.fadeAd) = (FadeChannel.powerOn, ⟨100, .off, .armed .us1500⟩) := by decide +kernel

/-- V-CMD-31: the previous sector is not taken. -/
theorem test_evTickSector_waits : let s : State := { dataWith 1 false true false with audio.sectorTimerArmed := true }
    after .evTickSector s = s := by decide +kernel

/-- The last sector of a READ(6): its first byte is placed and the timer stops (R200, P5 line 23). -/
theorem test_evTickSector_loads : let t := after .evTickSector { busy true false false false false with
      audio.sectorTimerArmed := true, audio.currentFrame := 5, audio.endFrame := 6 }
    (t.bus.dataReg, t.bus.dataIndex, t.bus.dataSize, t.bus.irqStatus, t.audio.currentFrame, t.audio.sectorTimerArmed) =
      (0x5A, 1, 2048, 0x40, 6, false) := by decide +kernel

/-- V-ADPCM-10. -/
theorem test_evTickDma_stall : let t := after .evTickDma { on with adpcm.dmaTimerArmed := true, adpcm.dmaBusy := true }
    (t.adpcm.dmaBusy, t.adpcm.dmaTimerArmed) = (false, false) := by decide +kernel

/-- A DMA tick moves the byte offered and takes the next (R232, R233). -/
theorem test_evTickDma_moves : let t := after .evTickDma { dataWith 1 false true false with
      adpcm.dmaTimerArmed := true, adpcm.writePointer := 0x2000, bus.dataReg := 0x11 }
    (t.adpcm.ram, t.adpcm.writePointer, t.bus.dataReg, t.bus.dataIndex) = ([(0x2000, 0x11)], 0x2001, 0x22, 2) := by decide +kernel

/-- V-PLAY-1, tick 1. -/
theorem test_evTickNibble_high : let t := after .evTickNibble { on with adpcm.playing := true, adpcm.ram := [(0, 0xAB)] }
    (t.hist, t.adpcm.nibbleSelector) = ([.clockNibble 0xA], true) := by decide +kernel

/-- V-PLAY-1, tick 2. -/
theorem test_evTickNibble_low : let t := after .evTickNibble { on with
      adpcm.playing := true, adpcm.ram := [(0, 0xAB)], adpcm.nibbleSelector := true }
    (t.hist, t.adpcm.playing) = ([.clockNibble 0xB, .clockReset true], false) := by decide +kernel

/-- P4 line 11. -/
theorem test_evFadeCdIn : let t := after .evFadeCdIn { on with fadeCd := ⟨90, .armed .us100, .off⟩ }
    (t.fadeCd, t.hist) = (⟨100, .off, .off⟩, [.playerSetVolume 100]) := by decide +kernel

/-- V-FADE-7. -/
theorem test_evFadeCdOut : let t := after .evFadeCdOut { on with fadeCd := ⟨100, .off, .armed .us1500⟩ }
    (t.fadeCd, t.hist) = (⟨90, .off, .armed .us1500⟩, [.playerSetVolume 90]) := by decide +kernel

/-- V-FADE-8. -/
theorem test_evFadeAdIn : let t := after .evFadeAdIn { on with fadeAd := ⟨0, .armed .us100, .off⟩ }
    (t.fadeAd, t.hist) = (⟨10, .armed .us100, .off⟩, [.clockSetVolume 10]) := by decide +kernel

/-- V-FADE-9. -/
theorem test_evFadeAdOut : let t := after .evFadeAdOut { on with fadeAd := ⟨10, .off, .armed .us5000⟩ }
    (t.fadeAd, t.hist) = (⟨0, .off, .off⟩, [.clockSetVolume 0]) := by decide +kernel

/-- V-CMD-28. -/
theorem test_evPollAudio_irq : let t := after (.evPollAudio true) { on with
      audio.endOfTrackArmed := true, audio.playMode := .irqAtEnd, audio.playbackStatus := .playing }
    (t.bus.irqStatus, t.audio.endOfTrackArmed, t.audio.playbackStatus) = (0x20, false, .playing) := by decide +kernel

/-- V-CMD-29. -/
theorem test_evPollAudio_repeats : let t := after (.evPollAudio true) { onA with
      audio.endOfTrackArmed := true, audio.playMode := .repeats, audio.currentFrame := 1000 }
    (t.hist, t.audio.endOfTrackArmed) = ([.playerHasEnded true, .playerStart 1000 4500], true) := by decide +kernel

/-- V-ENC-5. -/
theorem test_reserved : after (.reserved 0) on = { on with fault := some .illegalHostOp } := by decide +kernel

/-- V-CMD-1 and V-CMD-2. -/
theorem test_testUnitReady : (after .testUnitReady onA).bus.dataReg = 0x00 ∧ (after .testUnitReady on).bus.dataReg = 0x01 := by
  decide +kernel

/-- V-CMD-5. -/
theorem test_read6 : let t := after (.read6 5 1) { onA with audio.playbackStatus := .playing, audio.endOfTrackArmed := true }
    (t.audio, t.hist) = (⟨5, 6, 5500, .off, .noEnd, false, true⟩, [.playerStop]) := by decide +kernel

/-- V-CMD-3. -/
theorem test_read6_no_frames : let t := after (.read6 0x1000 0) { onA with audio.currentFrame := 7 }
    (t.audio.currentFrame, t.audio.sectorTimerArmed, t.bus.dataReg, t.bus.req) = (7, false, 0x00, true) := by decide +kernel

/-- V-CMD-6. -/
theorem test_setAudioStart : let t := after (.setAudioStart 0 (.lba 1000)) onA
    (t.audio, t.hist) = (⟨1000, 5500, 5500, .playing, .stopAtEnd, false, false⟩,
      [.trackOf 1000 1, .tableOfContents discA.tracks, .playerStart 1000 4500]) := by decide +kernel

/-- V-CMD-10 and V-CMD-11. -/
theorem test_setAudioStart_faults :
    (after (.setAudioStart 0 (.lba 6000)) onA).fault = some .frameOutsideTracks ∧
    (after (.setAudioStart 1 (.lba 6000)) onA).fault = some .negativeLength := by decide +kernel

/-- V-CMD-12. -/
theorem test_setAudioEnd : let t := after (.setAudioEnd 3 (.lba 2000)) { onA with
      audio.currentFrame := 1000, audio.playbackStatus := .playing }
    (t.audio, t.hist) = (⟨1000, 2000, 5500, .playing, .stopAtEnd, true, false⟩, [.playerStart 1000 1000]) := by decide +kernel

/-- V-CMD-13. -/
theorem test_setAudioEnd_stops : let t := after (.setAudioEnd 0 (.lba 0)) { onA with
      audio.currentFrame := 1000, audio.playbackStatus := .playing }
    (t.audio, t.hist) = (⟨1000, 5500, 5500, .off, .noEnd, false, false⟩, [.playerStop]) := by decide +kernel

/-- V-CMD-14. -/
theorem test_pause : let t := after .pause { onA with audio.playbackStatus := .playing, answers := [1234] }
    (t.audio.playbackStatus, t.audio.currentFrame, t.hist) =
      (.paused, 1234, [.playerCurrentFrame 1234, .playerPause true]) := by decide +kernel

/-- V-CMD-18, and the queries of R84. -/
theorem test_getSubchannelQ : let t := after .getSubchannelQ { onA with audio.currentFrame := 1075 }
    (t.bus.dataBuffer, t.bus.dataSize, t.hist) = ([0x03, 0x00, 0x02, 0x01, 0x00, 0x01, 0x00, 0x00, 0x14, 0x25], 10,
      [.trackOf 1075 1, .tableOfContents discA.tracks]) := by decide +kernel

/-- V-CMD-22 and V-CMD-26. -/
theorem test_getDirInfo : (after (.getDirInfo 2 0x02) onA).bus.dataBuffer = [0x00, 0x15, 0x25, 0x00] ∧
    (after (.getDirInfo 3 0) onA).fault = some .dirInfoSubFunction := by decide +kernel

/-- V-CMD-20, and the query of R84. -/
theorem test_dirInfoTracks : (after .dirInfoTracks onA).bus.dataBuffer = [0x01, 0x02] ∧
    (after .dirInfoTracks onA).hist = [.tableOfContents discA.tracks] := by decide +kernel

/-- V-CMD-21. -/
theorem test_dirInfoDiscSize : (after .dirInfoDiscSize onA).bus.dataBuffer = [0x01, 0x15, 0x25] := by decide +kernel

/-- V-CMD-23 to V-CMD-25. -/
theorem test_dirInfoTrackStart : (after (.dirInfoTrackStart 0x00) onA).bus.dataBuffer = [0x00, 0x02, 0x00, 0x04] ∧
    (after (.dirInfoTrackStart 0xAA) onA).bus.dataBuffer = [0x01, 0x15, 0x25, 0x04] ∧
    (after (.dirInfoTrackStart 0x03) onA).fault = some .trackOutOfRange := by decide +kernel

/-- V-CMD-8. -/
theorem test_audioAddrLba : let t := after (.audioAddrLba .start 3 500) onA
    (t.audio.endFrame, t.audio.playMode, t.audio.endOfTrackArmed, t.hist) = (5500, .irqAtEnd, true, [.playerStart 500 5000]) := by
  decide +kernel

/-- V-ENC-17: the lead-in correction. -/
theorem test_audioAddrMsf : (after (.audioAddrMsf .start 0 0x00 0x07 0x01) onA).audio.currentFrame = 1 := by decide +kernel

/-- V-ENC-13 to V-ENC-15. -/
theorem test_audioAddrTrack : (after (.audioAddrTrack .start 0 0x02) onA).audio.currentFrame = 1000 ∧
    (after (.audioAddrTrack .start 0 0x00) onA).fault = some .trackOutOfRange ∧
    (after (.audioAddrTrack .finish 0 0x03) onA).fault = some .trackOutOfRange := by decide +kernel

/-- V-ENC-16. -/
theorem test_audioAddrReserved : (after (.audioAddrReserved .finish 1) onA).fault = some .addressType3 := by decide +kernel

/-- The placed instruction is the one the next step runs. -/
theorem test_step_withFetchWord :
    (match step (State.reset.withFetchWord 16 0x1E05) with
     | .next t => (t.adpcm.clockDivider, t.hpc, t.hist)
     | _ => (0, 0, [])) = (11, 1, [.clockDivider 11, .irq false]) := by decide +kernel

/-- REG_BASE OPEN, an address below it, a register, an offset past 3 bits, and one routed to the Arcade Card bank (R71). -/
theorem test_hostIndex :
    let based : Config := { Config.standard with regBase := some 0x1800 }
    let card : Config := { based with arcadeCard := true, arcadeBit := some 5 }
    (hostIndex Config.standard 0x1800, hostIndex based 0x17FF, hostIndex based 0x180D, hostIndex based 0x1A03,
      hostIndex card 0x1A03, hostIndex card 0x1803) = (none, none, some 0xD, some 0x3, none, some 0x3) := by decide

/-! ## Witnesses: for every statement with hypotheses, and every clause of it, a state and operands that meet them -/

/-- A host program of one word. -/
def word (w : HostWord) : State := State.powerOn configA [w] []

/-- The states of this file are at rest. -/
theorem atRest_on : AtRest on := atRest_of_quiet (by decide +kernel)

theorem atRest_onA : AtRest onA := atRest_of_quiet (by decide +kernel)

theorem witness_EncodeThenDecode : Instr.wf (.wr0xF 0xF7) = true ∧ Instr.wf (.read6 0x1FFFFF 0xFF) = true := ⟨rfl, rfl⟩

theorem witness_HostWordDecodeThenEncode :
    decodeHostOp 0x0000 = .ok .rd0x0 ∧ decodeHostOp 0x2701 = .ok (.evPollAudio true) ∧
    decodeHostOp 0x3FFF = .ok (.reserved 0xFFF) := ⟨rfl, rfl, rfl⟩

/-- Boundary words of each illegal form, and of the legal ones. -/
theorem witness_IllegalHostWords :
    (∀ w, (word w).fault = none ∧ (word w).program[(word w).hpc]? = some w) ∧
    ([0x3000#14, 0x3FFF#14].all fun w => w.extractLsb' 12 2 = 3#2) = true ∧
    ([0x0001#14, 0x0FFF#14].all fun w => w.extractLsb' 12 2 = 0#2 ∧ w.extractLsb' 0 8 ≠ 0#8) = true ∧
    ([0x2800#14, 0x2F00#14].all fun w => w.extractLsb' 12 2 = 2#2 ∧ 8#4 ≤ w.extractLsb' 8 4) = true ∧
    ([0x2001#14, 0x26FF#14].all fun w => w.extractLsb' 12 2 = 2#2 ∧ w.extractLsb' 8 4 ≠ 7#4 ∧ w.extractLsb' 0 8 ≠ 0#8) = true ∧
    ([0x2702#14, 0x27FF#14].all fun w => w.extractLsb' 12 2 = 2#2 ∧ w.extractLsb' 8 4 = 7#4 ∧ 1#8 < w.extractLsb' 0 8) = true ∧
    ([0x1000#14, 0x1FFF#14].all fun w => w.extractLsb' 12 2 = 1#2) = true :=
  ⟨fun _ => ⟨rfl, rfl⟩, by decide, by decide, by decide, by decide, by decide, by decide⟩

/-- W3's vectors: frames 524 and 525 on either side of the correction, and the last frame. -/
theorem witness_MsfRoundTrip : Config.standard.leadIn = 525 ∧
    audioAddr Config.standard (.msf 0x00 0x06 0x74) = .ok 524 ∧ audioAddr Config.standard (.msf 0x00 0x07 0x00) = .ok 0 ∧
    audioAddr Config.standard (.msf 0x99 0x59 0x74) = .ok 449474 := ⟨rfl, rfl, rfl, rfl⟩

theorem witness_AudioAddressForms : Config.standard.disc = none ∧ configA.disc = some discA ∧
    bcdDec 0x00 = 0 ∧ discA.tracks.length < bcdDec 0x03 ∧
    (1 ≤ bcdDec 0x01 ∧ discA.tracks[bcdDec 0x01 - 1]? = some ⟨0, 1000, .data⟩) ∧
    (1 ≤ bcdDec 0x02 ∧ discA.tracks[bcdDec 0x02 - 1]? = some ⟨1000, 4500, .audio⟩) := by decide +kernel

theorem witness_StepRunsDecodedInstruction :
    (exec (.wr0x1 0x12) (word 0x1112) = .next (after (.wr0x1 0x12) (word 0x1112)) ∧
      (after (.wr0x1 0x12) (word 0x1112)).fault = none ∧ decodeHostOp 0x1112 = .ok (.wr0x1 0x12)) ∧
    (exec (.reserved 0) (word 0x3000) = .next { word 0x3000 with fault := some .illegalHostOp } ∧
      ({ word 0x3000 with fault := some .illegalHostOp } : State).fault = some .illegalHostOp ∧
      decodeHostOp 0x3000 = .ok (.reserved 0)) ∧
    (exec .evTickSector (word 0x2000) = .refused (.notEnabled .sectorTimer) ∧ decodeHostOp 0x2000 = .ok .evTickSector) :=
  ⟨⟨rfl, rfl, rfl⟩, ⟨rfl, rfl, rfl⟩, ⟨rfl, rfl⟩⟩

/-- An unknown opcode, a block one byte short, a block that replies and a block that faults. -/
theorem witness_DispatchRunsCommand :
    BusInv (commandWith [0x12]) ∧ BusInv (commandWith [0x00, 0, 0, 0, 0]) ∧ BusInv (commandWith [0x00, 0, 0, 0, 0, 0]) ∧
    BusInv (commandWith [0xDE, 0x03, 0, 0, 0, 0, 0, 0, 0, 0]) ∧
    (commandWith [0x12]).fault = none ∧ (0x00#8)[7] = false ∧
    (after (.wr0x2 0x00) (commandWith [0x00, 0, 0, 0, 0, 0])).fault = none ∧
    (after (.wr0x2 0x00) (commandWith [0xDE, 0x03, 0, 0, 0, 0, 0, 0, 0, 0])).fault = some .dirInfoSubFunction :=
  ⟨busInv_of_checks (by decide +kernel), busInv_of_checks (by decide +kernel), busInv_of_checks (by decide +kernel),
    busInv_of_checks (by decide +kernel), rfl, by decide, by decide +kernel, by decide +kernel⟩

/-- The state after one step of a program, for the statements about a step: one that raises nothing and one that raises. -/
theorem witness_step : (∃ t, step (word 0x1E05) = .next t ∧ t.hist.length = 2) ∧ step (word 0x3000) = .fault .illegalHostOp ∧
    step (word 0x2702) = .fault .illegalHostOp ∧ BusInv (word 0x3000) ∧ AdpcmInv (word 0x3000) ∧ FadesInv (word 0x3000) ∧
    AudioInv (word 0x3000) :=
  ⟨⟨_, rfl, by decide +kernel⟩, rfl, rfl, busInv_of_checks (by decide +kernel),
    ⟨by decide +kernel, by decide +kernel, by decide +kernel, by decide +kernel, by decide +kernel, by decide +kernel,
      by decide +kernel⟩,
    ⟨⟨by decide +kernel, by decide +kernel, by decide +kernel, by decide +kernel, by decide +kernel⟩,
      ⟨by decide +kernel, by decide +kernel, by decide +kernel, by decide +kernel, by decide +kernel⟩⟩,
    ⟨by decide +kernel, by decide +kernel, by decide +kernel, by decide +kernel⟩⟩

/-- FaultsRollBackAndStick, StepKeepsParameters, IrqLineLevel, and the fault clauses of the invariants: the states of `witness_step`, an
instruction that takes a fault, and a state with a fault recorded. -/
theorem witness_FaultsRollBackAndStick : exec (.reserved 0) (word 0x3000) = .next (takeFault (word 0x3000) .illegalHostOp) ∧
    (word 0x3000).fault = none ∧ (takeFault (word 0x3000) .illegalHostOp).fault = some .illegalHostOp ∧
    ({ word 0x1E05 with fault := some .noDisc } : State).fault = some .noDisc := ⟨rfl, rfl, rfl, rfl⟩

theorem witness_NotEnabledIsRejected :
    on.audio.sectorTimerArmed = false ∧ on.adpcm.dmaTimerArmed = false ∧ on.adpcm.playing = false ∧
    on.fadeCd.fadeIn = .off ∧ on.fadeCd.fadeOut = .off ∧ on.fadeAd.fadeIn = .off ∧ on.fadeAd.fadeOut = .off ∧
    on.fault = none ∧ on.hpc = on.program.length := by decide +kernel

/-- No disc, an end within 32 bits, and one past them at the boundary. -/
theorem witness_PowerOnValues : Config.standard.disc = none ∧ configA.disc = some discA ∧
    discA.tracks.getLast? = some ⟨1000, 4500, .audio⟩ ∧ (1000#32).toNat + (4500#32).toNat < 2 ^ 32 ∧
    [(⟨0xFFFFFFFF, 1, .audio⟩ : Track)].getLast? = some ⟨0xFFFFFFFF, 1, .audio⟩ ∧
    2 ^ 32 ≤ (0xFFFFFFFF#32).toNat + (1#32).toNat := by decide +kernel

/-- The statements over states at rest: BramUnlockAndRead, CddaSampleRegisters, DiscardedWrites, DataAndAddressWrites,
DmaControlWrite, AdpcmControlWrite, PlaybackRateWrite and FadePrograms ask for nothing else. -/
theorem witness_AtRest : AtRest on ∧ AtRest (busy true false false true false) :=
  ⟨atRest_on, atRest_of_quiet (by decide +kernel)⟩

/-- The power-on state with the holdoffs of the RAM port set. -/
def held : State := { on with adpcm.readHoldoff := 2, adpcm.writeHoldoff := 1 }

theorem witness_RamPortRead : 0 < held.adpcm.readHoldoff ∧ on.adpcm.readHoldoff = 0 := by decide +kernel

theorem witness_RamPortWrite : AtRest held ∧ 0 < held.adpcm.writeHoldoff ∧ on.adpcm.writeHoldoff = 0 :=
  ⟨atRest_of_quiet (by decide +kernel), by decide +kernel, rfl⟩

/-- A byte is offered with bytes left, with none left, and with none left after the last transfer; and none is offered. -/
theorem witness_DataInRead :
    BusInv (busy true false false true false) ∧
    (BusInv (dataWith 1 false true false) ∧ (dataWith 1 false true false).bus.dataIndex ≠ (dataWith 1 false true false).bus.dataSize) ∧
    BusInv (dataWith 2 false true false) ∧ BusInv (dataWith 2 true true false) :=
  ⟨busInv_of_checks (by decide +kernel), ⟨busInv_of_checks (by decide +kernel), by decide +kernel⟩,
    busInv_of_checks (by decide +kernel), busInv_of_checks (by decide +kernel)⟩

theorem witness_SelectWrite :
    (BusInv (busy true false false true false) ∧ (busy true false false true false).bus.selected = true) ∧
    (BusInv on ∧ on.bus.selected = false ∧ on.bus.ack = false) ∧
    (BusInv freeAck ∧ freeAck.bus.selected = false ∧ freeAck.bus.ack = true ∧ freeAck.bus.commandBuffer.length ≠ 256) ∧
    (BusInv { freeAck with bus.commandBuffer := fullBuffer } ∧ fullBuffer.length = 256) :=
  ⟨⟨busInv_of_checks (by decide +kernel), rfl⟩, ⟨busInv_of_checks (by decide +kernel), rfl, rfl⟩,
    ⟨busInv_of_checks (by decide +kernel), rfl, rfl, by decide +kernel⟩, busInv_of_checks (by decide +kernel), by decide +kernel⟩

/-- ACK as it is, a rise with no REQ, and a fall in each phase with nothing pending. -/
theorem witness_AckWithNothingPending :
    (BusInv on ∧ (0x7F#8)[7] = on.bus.ack ∧ (0x80#8)[7] = true ∧ on.bus.ack = false ∧ on.bus.req = false) ∧
    (BusInv freeAck ∧ (0x00#8)[7] = false ∧ freeAck.bus.ack = true ∧ freeAck.bus.bsy = false) ∧
    (BusInv (commandWith []) ∧ (commandWith []).bus.commandBuffer = []) ∧
    (BusInv (busy true false true false true) ∧ (busy true false true false true).bus.statusSent = false) ∧
    (BusInv (busy true true true false true) ∧ (busy true true true false true).bus.messageSent = false) :=
  ⟨⟨busInv_of_checks (by decide +kernel), by decide, by decide, rfl, rfl⟩, ⟨busInv_of_checks (by decide +kernel), by decide, rfl, rfl⟩,
    ⟨busInv_of_checks (by decide +kernel), rfl⟩, ⟨busInv_of_checks (by decide +kernel), rfl⟩,
    busInv_of_checks (by decide +kernel), rfl⟩

theorem witness_AckTakesCommandByte :
    (BusInv (busy true false false true false) ∧ (busy true false false true false).bus.commandBuffer.length ≠ 256 ∧ (0x80#8)[7] = true) ∧
    BusInv { busy true false false true false with bus.commandBuffer := fullBuffer } :=
  ⟨⟨busInv_of_checks (by decide +kernel), by decide +kernel, by decide⟩, busInv_of_checks (by decide +kernel)⟩

/-- A status byte offered, and one taken, with and without a message to follow. -/
theorem witness_AckTakesStatus :
    BusInv (busy true false true true false) ∧
    BusInv { busy true false true false true with bus.statusSent := true, bus.messageAfterStatus := true } ∧
    BusInv { busy true false true false true with bus.statusSent := true } :=
  ⟨busInv_of_checks (by decide +kernel), busInv_of_checks (by decide +kernel), busInv_of_checks (by decide +kernel)⟩

theorem witness_AckTakesMessage :
    BusInv (busy true true true true false) ∧ BusInv { busy true true true false true with bus.messageSent := true } :=
  ⟨busInv_of_checks (by decide +kernel), busInv_of_checks (by decide +kernel)⟩

/-- A data byte offered, and one taken: with bytes left, and drained without and with the last transfer. -/
theorem witness_AckTakesDataByte :
    BusInv (dataWith 1 false true false) ∧ BusInv (dataWith 1 false false true) ∧
    BusInv (dataWith 2 false false true) ∧ BusInv (dataWith 2 true false true) :=
  ⟨busInv_of_checks (by decide +kernel), busInv_of_checks (by decide +kernel), busInv_of_checks (by decide +kernel),
    busInv_of_checks (by decide +kernel)⟩

/-- RST low, and RST held. -/
theorem witness_ResetLineWrite :
    (BusInv on ∧ (0x02#8)[1] = true ∧ (0xFD#8)[1] = false) ∧
    BusInv { on.setReg 0x4 0x02 with bus.rst := true, bus.lastRst := true } :=
  ⟨⟨busInv_of_checks (by decide +kernel), by decide, by decide⟩, busInv_of_checks (by decide +kernel)⟩

theorem witness_DmaControlWrite : (0xFC#8).extractLsb' 0 2 = 0#2 ∧ (0x01#8).extractLsb' 0 2 ≠ 0#2 := by decide

theorem witness_FadeRegisterWrite : on.getReg 0xF = 0x00 ∧
    (0x07#8).extractLsb' 0 4 ∉ [0x0#4, 0x1#4, 0x8#4, 0x9#4, 0xA#4, 0xC#4, 0xD#4, 0xE#4] ∧ 0x07#8 ≠ on.getReg 0xF := by
  decide +kernel

/-- The sector timer armed, with the previous sector not taken and with the buffer drained. -/
theorem witness_SectorTick :
    BusInv { dataWith 1 false true false with audio.sectorTimerArmed := true } ∧
    BusInv { busy true false false false false with audio.sectorTimerArmed := true } ∧
    (busy true false false false false).bus.dataIndex = (busy true false false false false).bus.dataSize :=
  ⟨busInv_of_checks (by decide +kernel), busInv_of_checks (by decide +kernel), rfl⟩

/-- The DMA timer armed, with no byte offered and with one. -/
theorem witness_DmaTick :
    BusInv { on with adpcm.dmaTimerArmed := true } ∧ BusInv { dataWith 2 true true false with adpcm.dmaTimerArmed := true } :=
  ⟨busInv_of_checks (by decide +kernel), busInv_of_checks (by decide +kernel)⟩

/-- Playing at the last byte of RAM, at the low nibble: with the end past the wrapped address, and with it behind. -/
def playing (low : Bool) (end_ : Addr) : State :=
  { on with
    adpcm.playing := true, adpcm.nibbleSelector := low, adpcm.playStartAddress := 65534, adpcm.playEndAddress := end_ }

theorem witness_NibbleTick :
    (AtRest (playing false 0) ∧ (playing false 0).adpcm.nibbleSelector = false) ∧
    (65535 ≤ (playing true 0xFFFF).adpcm.playEndAddress.toNat ∧ (playing true 0xFFFE).adpcm.playEndAddress.toNat < 65535) ∧
    AtRest (playing true 0xFFFF) ∧ AtRest (playing true 0xFFFE) :=
  ⟨⟨atRest_of_quiet (by decide +kernel), rfl⟩, by decide +kernel, atRest_of_quiet (by decide +kernel),
    atRest_of_quiet (by decide +kernel)⟩

/-- A channel fading in, at either end of the ramp, and one fading out. -/
theorem witness_FadeTicks :
    AtRest { on with fadeCd := ⟨0, .armed .us100, .off⟩, fadeAd := ⟨90, .armed .us100, .off⟩ } ∧
    AtRest { on with fadeCd := ⟨100, .off, .armed .us1500⟩, fadeAd := ⟨10, .off, .armed .us5000⟩ } :=
  ⟨atRest_of_quiet (by decide +kernel), atRest_of_quiet (by decide +kernel)⟩

/-- An armed poll in each mode, with the end at, before and after the position. -/
def polled (mode : PlayMode) (position : Frame) : State :=
  { onA with audio.endOfTrackArmed := true, audio.playMode := mode, audio.currentFrame := position }

theorem witness_AudioEndPoll :
    (∀ mode position, AtRest (polled mode position) ∧ (polled mode position).audio.endOfTrackArmed = true ∧
      (polled mode position).audio.playMode = mode) ∧
    (polled .repeats 5500).audio.currentFrame ≤ (polled .repeats 5500).audio.endFrame ∧
    (polled .repeats 5501).audio.endFrame < (polled .repeats 5501).audio.currentFrame ∧ onA.audio.endOfTrackArmed = false :=
  ⟨fun _ _ => ⟨atRest_congr (s := onA) rfl atRest_onA, rfl, rfl⟩, by decide +kernel⟩

/-- The audio states a command finds: off, playing and paused, with a disc. -/
def audioIn (status : PlaybackStatus) (answers : List Frame) : State :=
  { onA with audio.playbackStatus := status, audio.currentFrame := 1000, answers := answers }

theorem witness_ReadSix : on.config.disc = none ∧ onA.config.disc ≠ none ∧ onA.audio.playbackStatus = .off ∧
    (audioIn .playing []).audio.playbackStatus ≠ .off ∧ (0x00 : Byte) = 0 ∧ (0xFF : Byte) ≠ 0 := by decide +kernel

/-- A START_MODE with one entry, for mode 0 at frame 7. -/
def entryTable : StartModeTable := { StartModeTable.standard with given := [⟨0, 7, ⟨9, .repeats, true⟩⟩] }

/-- A disc whose only track ends at frame 2^32. -/
def longDisc : Disc := { tracks := [⟨7, 0xFFFFFFF9, .audio⟩], sectors := [] }

/-- Both forms of the command; an address that faults; a start in no track; and an end before the start, at it and after it. -/
theorem witness_SetAudioStart :
    IsAudioCommand .start 0 (.lba 1000) (.setAudioStart 0 (.lba 1000)) ∧
    IsAudioCommand .start 3 (.track 0x02) (.audioAddrTrack .start 3 0x02) ∧
    onA.config.disc = some discA ∧ audioAddr onA.config .reserved = .error .addressType3 ∧
    (audioAddr onA.config (.lba 5500) = .ok 5500 ∧ (startRow onA.config.startMode 0).extent = .thisTrack ∧
      onA.config.startMode.given = [] ∧ trackOf discA 5500 = none) ∧
    (5500#32 < 5501#32 ∧ 5500#32 ≤ 5500#32) :=
  ⟨.inl ⟨rfl, rfl⟩, .inr (.inr (.inr (.inr (.inl ⟨_, rfl, rfl⟩)))), rfl, rfl, by decide +kernel, by decide⟩

/-- What START_MODE gives: an entry, a row that plays the whole disc, and a row that plays a track, its end within 32 bits and past
them. -/
theorem witness_StartModeGives :
    StartModeGives entryTable discA 5500 0 7 ⟨9, .repeats, true⟩ [] ∧
    StartModeGives .standard discA 5500 1 5501 ⟨5500, .stopAtEnd, false⟩ [] ∧
    StartModeGives .standard discA 5500 0 5499 ⟨5500, .stopAtEnd, false⟩ [.trackOf 5499 1, .tableOfContents discA.tracks] ∧
    StartModeGives entryTable longDisc 0 0 8 ⟨Config.frameOverflow (2 ^ 32), .stopAtEnd, false⟩
      [.trackOf 8 0, .tableOfContents longDisc.tracks] :=
  ⟨.inl ⟨rfl, [], [], rfl, by decide⟩, .inr ⟨by decide, rfl, rfl, .inl ⟨rfl, rfl, rfl⟩⟩,
    .inr ⟨by decide, rfl, rfl, .inr ⟨rfl, 1, _, rfl, rfl, fun _ => rfl, fun h => absurd h (by decide)⟩⟩,
    .inr ⟨by decide, rfl, rfl, .inr ⟨rfl, 0, _, rfl, rfl, fun h => absurd h (by decide), fun _ => rfl⟩⟩⟩

theorem witness_SetAudioEnd :
    IsAudioCommand .finish 1 (.lba 1000) (.audioAddrLba .finish 1 1000) ∧
    IsAudioCommand .finish 0 .reserved (.setAudioEnd 0 .reserved) ∧ onA.config.disc = some discA ∧
    audioAddr onA.config (.lba 1000) = .ok 1000 ∧ audioAddr onA.config .reserved = .error .addressType3 ∧
    (audioIn .paused []).audio.playbackStatus = .paused ∧ (audioIn .playing []).audio.playbackStatus ≠ .paused ∧
    (999#32 < (audioIn .playing []).audio.currentFrame ∧ (audioIn .playing []).audio.currentFrame ≤ 1000#32) :=
  ⟨.inr (.inr (.inl ⟨_, rfl, rfl⟩)), .inr (.inl ⟨rfl, rfl⟩), rfl, rfl, rfl, rfl, by decide +kernel, by decide +kernel⟩

/-- The player's answer from the schedule, and its free value. -/
theorem witness_PauseCommand :
    PlayerAnswers (audioIn .playing [1234]) 1234 { audioIn .playing [] with hist := [.playerCurrentFrame 1234] } ∧
    (∃ f u, PlayerAnswers (audioIn .paused []) f u) ∧ on.config.disc = none ∧ onA.audio.playbackStatus = .off :=
  ⟨.inl ⟨[], rfl, rfl⟩, ⟨_, _, .inr ⟨rfl, rfl, rfl⟩⟩, rfl, rfl⟩

/-- A position in a track and one in none, with playback off. -/
theorem witness_SubchannelReply :
    on.config.disc = none ∧ onA.config.disc = some discA ∧ onA.audio.playbackStatus = .off ∧
    trackOf discA onA.audio.currentFrame = some (0, ⟨0, 1000, .data⟩) ∧
    trackOf discA { onA with audio.currentFrame := 5500 }.audio.currentFrame = none ∧
    PlayerAnswers (audioIn .paused [5499]) 5499 { audioIn .paused [] with hist := [.playerCurrentFrame 5499] } :=
  ⟨rfl, rfl, rfl, rfl, by decide +kernel, .inl ⟨[], rfl, rfl⟩⟩

theorem witness_DirInfoReply : on.config.disc = none ∧ onA.config.disc = some discA ∧ 2 < (0x03#8).toNat ∧
    (0x02 : Byte) ≠ 0xAA ∧ discA.tracks[max (bcdDec 0x00) 1 - 1]? = some ⟨0, 1000, .data⟩ ∧
    discA.tracks[max (bcdDec 0x02) 1 - 1]? = some ⟨1000, 4500, .audio⟩ ∧ discA.tracks.length < max (bcdDec 0x03) 1 := by
  decide +kernel

theorem witness_TrackLookup : Disc.wf discA = true ∧ trackOf discA 999 = some (0, ⟨0, 1000, .data⟩) ∧
    trackOf discA 1000 = some (1, ⟨1000, 4500, .audio⟩) ∧ trackOf discA 5500 = none ∧
    readSector (some discA) 5 = some (List.replicate 2048 0x5A) ∧
    trackOf discA 5 = some (0, ⟨0, 1000, .data⟩) ∧ sectorAt 5 discA.sectors = some (List.replicate 2048 0x5A) ∧
    (⟨5, List.replicate 2048 0x5A⟩ ∈ discA.sectors ∧ ∀ x ∈ discA.sectors, x.frame = 5 → x.bytes = List.replicate 2048 0x5A) ∧
    (∀ x ∈ discA.sectors, x.frame ≠ 6) ∧ trackOf discA 6 = some (0, ⟨0, 1000, .data⟩) := by decide +kernel

/-- The invariants hold of a state that takes a step which changes what they are about. -/
theorem witness_StepKeepsBusInv : BusInv (word 0x1000) ∧ ∃ t, step (word 0x1000) = .next t ∧ t.bus.bsy = true :=
  ⟨busInv_of_checks (by decide +kernel), _, rfl, by decide +kernel⟩

theorem witness_StepKeepsAdpcmInv : AdpcmInv (word 0x1A55) ∧ ∃ t, step (word 0x1A55) = .next t ∧ t.adpcm.ram = [(0, 0x55)] :=
  ⟨⟨by decide +kernel, by decide +kernel, by decide +kernel, by decide +kernel, by decide +kernel, by decide +kernel,
    by decide +kernel⟩, _, rfl, by decide +kernel⟩

theorem witness_StepKeepsFadesInv : FadesInv (word 0x1F01) ∧ ∃ t, step (word 0x1F01) = .next t ∧ t.fadeCd.volume = 0 :=
  ⟨⟨⟨by decide +kernel, by decide +kernel, by decide +kernel, by decide +kernel, by decide +kernel⟩,
    ⟨by decide +kernel, by decide +kernel, by decide +kernel, by decide +kernel, by decide +kernel⟩⟩, _, rfl, by decide +kernel⟩

/-- A program that dispatches READ(6) arms the sector timer. -/
theorem witness_StepKeepsAudioInv :
    let s : State := { commandWith [0x08, 0, 0, 5, 1, 0] with program := [0x1200] }
    StartModeTable.armsWithAction s.config.startMode ∧ AudioInv s ∧ ∃ t, step s = .next t ∧ t.audio.sectorTimerArmed = true :=
  ⟨⟨by decide, by decide, by decide, by decide, by decide⟩, ⟨by decide +kernel, by decide +kernel, by decide +kernel, by decide +kernel⟩,
    _, rfl, by decide +kernel⟩

theorem witness_PumpReachesRest : ∃ t, pump { on with bus.sel := true } = .ok t ∧ t.bus.bsy = true := ⟨_, rfl, by decide +kernel⟩

/-- OnlyPortAndDmaStore and RegisterLockAndFadeFrame: an instruction that stores nothing and gives a next state. -/
theorem witness_frames : exec (.wr0x1 0x12) on = .next (after (.wr0x1 0x12) on) ∧ storedRegister (.wr0x1 0x12) = some 0x1 ∧
    touchesFades (.wr0x1 0x12) = false ∧ (∀ v, Instr.wr0x1 0x12 ≠ .wr0xA v) ∧ 5 ≠ on.adpcm.writePointer.toNat :=
  ⟨rfl, rfl, rfl, (fun v h => by cases h), by decide +kernel⟩

theorem witness_PortWritesWrapAround : AtRest on ∧ on.adpcm.writeHoldoff = 0 ∧ ([0x11, 0x22] : List Byte)[1]? = some 0x22 :=
  ⟨atRest_on, rfl, rfl⟩

theorem witness_FadeTakesTenTicks :
    AtRest { on with fadeCd := ⟨0, .armed .us100, .off⟩, fadeAd := ⟨0, .armed .us100, .off⟩ } ∧
    AtRest { on with fadeCd := ⟨100, .off, .armed .us5000⟩, fadeAd := ⟨100, .off, .armed .us1500⟩ } :=
  ⟨atRest_of_quiet (by decide +kernel), atRest_of_quiet (by decide +kernel)⟩

end Sys2Proof.Tests
end

/-! PROOFS. The host operations, and what one step of the schedule can do: said once, for every statement about all steps. -/

namespace Sys2Proof

/-- The rows a host-operation word can be: RD, WR, EV, FADE and the reserved kind, but no command block (30_encoding.md R100). -/
def Instr.isHostOp : Instr → Bool
  | .testUnitReady | .read6 _ _ | .setAudioStart _ _ | .setAudioEnd _ _ | .pause | .getSubchannelQ | .getDirInfo _ _
  | .dirInfoTracks | .dirInfoDiscSize | .dirInfoTrackStart _
  | .audioAddrLba _ _ _ | .audioAddrMsf _ _ _ _ _ | .audioAddrTrack _ _ _ | .audioAddrReserved _ _ => false
  | _ => true

theorem readRow_isHostOp (sel : BitVec 4) : (readRow sel).isHostOp = true := by
  unfold readRow
  split <;> rfl

theorem fadeRow_isHostOp (data : Byte) : (fadeRow data).isHostOp = true := by
  unfold fadeRow
  dsimp only
  split <;> rfl

theorem writeRow_isHostOp (sel : BitVec 4) (data : Byte) : (writeRow sel data).isHostOp = true := by
  unfold writeRow
  split
  case h_16 => exact fadeRow_isHostOp data
  all_goals rfl

theorem plainEvent_ok {data : Byte} {i j : Instr} (h : plainEvent data i = .ok j) : j = i := by
  unfold plainEvent at h
  split at h <;> cases h
  rfl

theorem pollRow_ok {data : Byte} {i : Instr} (h : pollRow data = .ok i) : ∃ answer, i = .evPollAudio answer := by
  unfold pollRow at h
  split at h <;> cases h <;> exact ⟨_, rfl⟩

theorem eventRow_isHostOp {sel : BitVec 4} {data : Byte} {i : Instr} (h : eventRow sel data = .ok i) :
    i.isHostOp = true := by
  unfold eventRow at h
  split at h
  case h_8 => obtain ⟨answer, rfl⟩ := pollRow_ok h; rfl
  case h_9 => cases h
  all_goals rw [plainEvent_ok h]; rfl

/-- A word of the schedule decodes to a row of the host operations only. -/
theorem decodeHostOp_isHostOp {w : HostWord} {i : Instr} (h : decodeHostOp w = .ok i) : i.isHostOp = true := by
  unfold decodeHostOp at h
  split at h
  · split at h <;> cases h
    exact readRow_isHostOp _
  · cases h
    exact writeRow_isHostOp _ _
  · exact eventRow_isHostOp h
  · cases h
    rfl

end Sys2Proof

namespace Sys2Proof.Machine

/-! ## What an instruction does before its pump -/

/-- Everything the ADPCM engine does by itself: its register writes (42_adpcm_dma.md R231, R234, R237, R243), a stalled DMA tick (R232)
and the two halves of a nibble tick (R241). -/
inductive EngineMove (s : State) : State → Prop
  | portWrite (v : Byte) : EngineMove s (portWrite v s)
  | dmaControlWrite (v : Byte) : EngineMove s (dmaControlWrite v s)
  | controlWrite (v : Byte) : EngineMove s (adpcmControlWrite v s)
  | rateWrite (v : Byte) : EngineMove s (rateWrite v s)
  | dmaStall : EngineMove s (dmaStall s)
  | lowNibble : s.adpcm.playing = true → EngineMove s (lowNibble s)
  | highNibble : s.adpcm.playing = true → EngineMove s (highNibble s)

/-- Everything the fade controller does: its register write (43_fade.md R271) and the ticks of its armed timers (R276, R277). -/
inductive FadeMove (s : State) : State → Prop
  | write (v : Byte) : FadeMove s (fadeWrite v s)
  | up (ch : Channel) : (s.channel ch).fadeIn.isArmed = true →
      FadeMove s ((s.setChannel ch (rampUp (s.channel ch))).push (volumeEvent ch (rampUp (s.channel ch)).volume))
  | down (ch : Channel) : (s.channel ch).fadeOut.isArmed = true →
      FadeMove s ((s.setChannel ch (rampDown (s.channel ch))).push (volumeEvent ch (rampDown (s.channel ch)).volume))

/-- Everything a host write or an agent event can do before its last pump (44_host_registers.md R316, 30_encoding.md R102). -/
inductive PrePump (s : State) : State → Prop
  /-- Nothing: a discarded write (R315), or a sector tick whose data is not taken yet (41_scsi_commands.md R200). -/
  | nothing : PrePump s s
  /-- A register that only holds its byte (R306, R307, R308). -/
  | store {r : RegIndex} (v : Byte) : r = 0x5 ∨ r = 0x6 ∨ r = 0x8 ∨ r = 0x9 → PrePump s (s.setReg r v)
  | write1 (v : Byte) : PrePump s (write1 v s)
  | write2 (v : Byte) : PrePump s (write2 v s)
  | write4 (v : Byte) : PrePump s (write4 v s)
  | write7 (v : Byte) : PrePump s (write7 v s)
  /-- The SEL pulse, with a pump of its own (R300). -/
  | select (v : Byte) {t : State} : pump { s.setReg 0x0 v with bus.sel := true } = .ok t →
      PrePump s { t with
        bus.sel := false, adpcm.dmaTimerArmed := false, bus.irqStatus := t.bus.irqStatus &&& ~~~irqTransfer }
  | engine {t : State} : EngineMove s t → PrePump s t
  /-- A DMA tick that takes the byte offered (42_adpcm_dma.md R232). -/
  | dmaMove {t : State} : byteOffered s.bus = true → accessor s = .ok t →
      PrePump s { storeAtWritePointer s.bus.dataReg t with adpcm.dmaBusy := true }
  | fade {t : State} : FadeMove s t → PrePump s t
  /-- A sector is loaded (41_scsi_commands.md R200). -/
  | sector : s.audio.sectorTimerArmed = true → s.bus.dataIndex = s.bus.dataSize → PrePump s (loadSector s)
  /-- The player is polled (41_scsi_commands.md R201). -/
  | poll (ended : Bool) {t : State} : pollAnswered ended (s.push (.playerHasEnded ended)) = .ok t → PrePump s t

/-- Everything a host operation that raises nothing can do: a read (44_host_registers.md R303 to R314), or an effect and the pump. -/
inductive StepMove (s : State) : State → Prop
  /-- A read that only records its value (R317). -/
  | plainRead (r : RegIndex) (v : Byte) : StepMove s (recordRead r v s)
  /-- A read of a drawn byte (R306). -/
  | drawnRead (r : RegIndex) (v : Byte) : StepMove s ((recordRead r v s).drew 1)
  /-- The read of register 0x3, which locks BRAM (R303). -/
  | irqRead (v : Byte) : StepMove s ({ recordRead 0x3 v s with bramLocked := true }.drew 1)
  /-- The read of register 0x8 (R311). -/
  | dataRead {t : State} : accessor (recordRead 0x8 s.bus.dataReg s) = .ok t → StepMove s t
  /-- The read of register 0xA (R310). -/
  | portRead : StepMove s (portRead (recordRead 0xA (portValue s) s))
  | pumped {u t : State} : PrePump s u → pump u = .ok t → StepMove s t

/-! ## Every host operation is one of these moves -/

/-- A host write that computes its effect. -/
theorem hostWrite_moves {e : Result} {s t : State} (he : ∀ u, e = .ok u → PrePump s u) (h : hostWrite e s = .next t) :
    StepMove s t ∨ ∃ f, t = takeFault s f := by
  rcases hostWrite_next h with ⟨u, hu, ht⟩ | hf
  · exact .inl (.pumped (he u hu) ht)
  · exact .inr hf

/-- A host write whose effect raises nothing. -/
theorem hostWrite_ok_moves {s t u : State} (hu : PrePump s u) (h : hostWrite (.ok u) s = .next t) :
    StepMove s t ∨ ∃ f, t = takeFault s f :=
  hostWrite_moves (fun v hv => by cases hv; exact hu) h

/-- The step of an agent: its rule runs only while it is enabled (30_encoding.md R103). -/
theorem agentStep_moves {a : Agent} {r : Result} {s t : State}
    (h : agentStep a r s = .next t) (hr : agentEnabled s a = true → ∀ u, r = .ok u → StepMove s u) :
    StepMove s t ∨ ∃ f, t = takeFault s f := by
  obtain ⟨ha, hs⟩ := agentStep_next h
  rcases settle_next hs with ht | ⟨f, -, ht⟩
  · exact .inl (hr ha t ht)
  · exact .inr ⟨f, ht⟩

theorem write0_prePump {v : Byte} {s u : State} (h : write0 v s = .ok u) : PrePump s u := by
  obtain ⟨t, ht, h⟩ := Except.bind_eq_ok h
  cases h
  exact .select v ht

theorem sectorTick_moves {s t : State} (ha : s.audio.sectorTimerArmed = true) (h : sectorTick s = .ok t) : StepMove s t := by
  unfold sectorTick at h
  split at h
  · exact .pumped (.sector ha ‹_›) h
  · exact .pumped .nothing h

theorem dmaTransfer_prePump {s u : State} (h : dmaTransfer s = .ok u) : PrePump s u := by
  unfold dmaTransfer at h
  split at h
  · obtain ⟨t, ht, h⟩ := Except.bind_eq_ok h
    cases h
    exact .dmaMove ‹_› ht
  · cases h
    exact .engine .dmaStall

theorem dmaTick_moves {s t : State} (h : dmaTick s = .ok t) : StepMove s t := by
  obtain ⟨u, hu, ht⟩ := Except.bind_eq_ok h
  exact .pumped (dmaTransfer_prePump hu) ht

theorem nibbleTick_moves {s t : State} (ha : s.adpcm.playing = true) (h : nibbleTick s = .ok t) : StepMove s t := by
  unfold nibbleTick at h
  split at h
  · exact .pumped (.engine (.lowNibble ha)) h
  · exact .pumped (.engine (.highNibble ha)) h

theorem audioPoll_moves {ended : Bool} {s t : State} (h : audioPoll ended s = .ok t) : StepMove s t := by
  obtain ⟨u, hu, ht⟩ := Except.bind_eq_ok h
  exact .pumped (.poll ended hu) ht

/-- A host operation that gives a next state made one of the moves, or took a fault. -/
theorem exec_moves {i : Instr} {s t : State} (hi : i.isHostOp = true) (h : exec i s = .next t) :
    StepMove s t ∨ ∃ f, t = takeFault s f := by
  cases i with
  | rd0x0 | rd0x1 | rd0x2 | rd0x4 | rd0x7 | rd0x9 | rd0xB | rd0xC | rd0xD | rd0xE | rd0xF =>
    cases h; exact .inl (.plainRead _ _)
  | rd0x3 => cases h; exact .inl (.irqRead _)
  | rd0x5 | rd0x6 => cases h; exact .inl (.drawnRead _ _)
  | rd0x8 =>
    rcases settle_next h with ht | ⟨f, -, ht⟩
    · exact .inl (.dataRead ht)
    · exact .inr ⟨f, ht⟩
  | rd0xA => cases h; exact .inl .portRead
  | wr0x0 v => exact hostWrite_moves (fun _ => write0_prePump) h
  | wr0x1 v => exact hostWrite_ok_moves (.write1 v) h
  | wr0x2 v => exact hostWrite_ok_moves (.write2 v) h
  | wr0x3 _ | wr0xC _ => exact hostWrite_ok_moves .nothing h
  | wr0x4 v => exact hostWrite_ok_moves (.write4 v) h
  | wr0x5 v | wr0x6 v | wr0x8 v | wr0x9 v => exact hostWrite_ok_moves (.store v (by decide)) h
  | wr0x7 v => exact hostWrite_ok_moves (.write7 v) h
  | wr0xA v => exact hostWrite_ok_moves (.engine (.portWrite v)) h
  | wr0xB v => exact hostWrite_ok_moves (.engine (.dmaControlWrite v)) h
  | wr0xD v => exact hostWrite_ok_moves (.engine (.controlWrite v)) h
  | wr0xE v => exact hostWrite_ok_moves (.engine (.rateWrite v)) h
  | wr0xF v => exact hostWrite_ok_moves (.fade (.write v)) h
  | fade0x0 _ | fade0x1 _ | fade0x8 _ | fade0x9 _ | fade0xA _ | fade0xC _ | fade0xD _ | fade0xE _ =>
    exact hostWrite_ok_moves (.fade (.write _)) h
  | evTickSector => exact agentStep_moves h fun ha _ => sectorTick_moves ha
  | evTickDma => exact agentStep_moves h fun _ _ => dmaTick_moves
  | evTickNibble => exact agentStep_moves h fun ha _ => nibbleTick_moves ha
  | evFadeCdIn => exact agentStep_moves h fun ha _ => .pumped (.fade (.up .cd ha))
  | evFadeCdOut => exact agentStep_moves h fun ha _ => .pumped (.fade (.down .cd ha))
  | evFadeAdIn => exact agentStep_moves h fun ha _ => .pumped (.fade (.up .ad ha))
  | evFadeAdOut => exact agentStep_moves h fun ha _ => .pumped (.fade (.down .ad ha))
  | evPollAudio answer => exact agentStep_moves (a := .audioEndPoll) h fun _ _ => audioPoll_moves
  | reserved low => cases h; exact .inr ⟨_, rfl⟩
  | _ => cases hi

/-- A step with a next state is one of the moves, finished. -/
theorem step_moves {s t : State} (h : step s = .next t) : ∃ u, StepMove s u ∧ t = finishState u := by
  obtain ⟨-, w, i, u, -, hd, hx, hf, ht⟩ := step_next h
  rcases exec_moves (decodeHostOp_isHostOp hd) hx with hm | ⟨f, hu⟩
  · exact ⟨u, hm, ht⟩
  · rw [hu] at hf
    cases hf

/-- A property that every move keeps, and that neither the end of a step nor a recorded fault touches, is kept by every step, a raising
one included (60_exceptions.md R352). -/
theorem step_keeps {P : State → Prop} (hm : ∀ s t, P s → StepMove s t → P t)
    (hend : ∀ s, P s → P (finishState s)) (hfault : ∀ s f, P s → P (takeFault s f)) :
    (∀ s t : State, P s → step s = .next t → P t) ∧
    ∀ (s : State) (f : Fault), P s → step s = .fault f → P (stateAfter s) := by
  constructor
  · intro s t hs h
    obtain ⟨u, hu, rfl⟩ := step_moves h
    exact hend u (hm s u hs hu)
  · intro s f hs h
    rw [stateAfter_fault h]
    exact hfault s f hs

/-- A step that is not enabled leaves the state alone. -/
theorem stateAfter_refused {s : State} {r : Refusal} (h : step s = .refused r) : stateAfter s = s := by
  unfold stateAfter
  rw [h]

/-! ## Inductions over the pump -/

/-- A property every pass keeps is kept by the pump (40_bus_phases.md R140). -/
theorem pump_keeps {P : State → Prop} (hp : ∀ s t, P s → pass s = .ok t → P t) {s t : State} (hs : P s)
    (h : pump s = .ok t) : P t := by
  unfold pump at h
  generalize 8 = n at h
  induction n generalizing s with
  | zero => cases h
  | succ n ih =>
    simp only [pumpUpTo] at h
    split at h
    · cases h
    · rename_i u hu
      split at h
      · cases h
        exact hp s t hs hu
      · exact ih (hp s u hs hu) h

/-- The accessor changes nothing, or pumps at each level of its ACK pulse (40_bus_phases.md R155). -/
theorem accessor_cases {s t : State} (h : accessor s = .ok t) :
    t = s ∨ ∃ u, pump { s with bus.ack := true } = .ok u ∧ pump { u with bus.ack := false } = .ok t := by
  unfold accessor at h
  split at h
  · exact .inr (Except.bind_eq_ok h)
  · cases h
    exact .inl rfl

/-! ## What the moves leave alone -/

/-- Nothing but the ADPCM engine and the history differs. -/
def EngineOnly (s t : State) : Prop := t = { s with adpcm := t.adpcm, hist := t.hist }

theorem EngineOnly.trans {s t u : State} (h : EngineOnly s t) (k : EngineOnly t u) : EngineOnly s u :=
  Eq.trans k (by rw [h])

theorem controlReset_engineOnly (old v : Byte) (s : State) : EngineOnly s (controlReset old v s) := by
  unfold controlReset
  split <;> rfl

theorem controlPlay_engineOnly (old v : Byte) (s : State) : EngineOnly s (controlPlay old v s) := by
  unfold controlPlay
  split
  · rfl
  · split <;> rfl

theorem controlLength_engineOnly (a : Addr) (v : Byte) (s : State) : EngineOnly s (controlLength a v s) := by
  unfold controlLength
  split <;> rfl

theorem controlReadAddress_engineOnly (a : Addr) (v : Byte) (s : State) : EngineOnly s (controlReadAddress a v s) := by
  unfold controlReadAddress
  split <;> rfl

theorem controlWriteAddress_engineOnly (a : Addr) (v : Byte) (s : State) : EngineOnly s (controlWriteAddress a v s) := by
  unfold controlWriteAddress
  split <;> rfl

theorem EngineOnly.setReg {s t : State} (h : EngineOnly s t) (r : RegIndex) (v : Byte) :
    EngineOnly (s.setReg r v) (t.setReg r v) := by
  unfold EngineOnly
  rw [h]
  rfl

/-- The bits of a control write act one after another (42_adpcm_dma.md R237). -/
theorem adpcmControlWrite_engineOnly (v : Byte) (s : State) : EngineOnly (s.setReg 0xD v) (adpcmControlWrite v s) :=
  EngineOnly.setReg
    ((((controlReset_engineOnly _ v s).trans (controlPlay_engineOnly _ v _)).trans (controlLength_engineOnly _ v _)).trans
      ((controlReadAddress_engineOnly _ v _).trans (controlWriteAddress_engineOnly _ v _)))
    0xD v

/-- The engine stores a byte in one of its registers, or none, and then moves alone. -/
theorem EngineMove.engineOnly {s t : State} (h : EngineMove s t) :
    EngineOnly s t ∨ ∃ r v, (r = 0xA ∨ r = 0xB ∨ r = 0xD ∨ r = 0xE) ∧ EngineOnly (s.setReg r v) t := by
  cases h with
  | portWrite v => refine .inr ⟨0xA, v, by decide, ?_⟩; unfold Machine.portWrite; dsimp only; split <;> rfl
  | dmaControlWrite v => refine .inr ⟨0xB, v, by decide, ?_⟩; unfold Machine.dmaControlWrite; dsimp only; split <;> rfl
  | controlWrite v => exact .inr ⟨0xD, v, by decide, adpcmControlWrite_engineOnly v s⟩
  | rateWrite v => exact .inr ⟨0xE, v, by decide, rfl⟩
  | dmaStall => refine .inl ?_; unfold Machine.dmaStall; dsimp only; split <;> rfl
  | lowNibble _ => refine .inl ?_; unfold Machine.lowNibble; dsimp only; split <;> rfl
  | highNibble _ => exact .inl rfl

theorem EngineMove.bus {s t : State} (h : EngineMove s t) : t.bus = s.bus := by
  rcases h.engineOnly with h | ⟨r, v, -, h⟩ <;> rw [h]
  rfl

theorem EngineMove.audio {s t : State} (h : EngineMove s t) : t.audio = s.audio := by
  rcases h.engineOnly with h | ⟨r, v, -, h⟩ <;> rw [h]
  rfl

theorem EngineMove.getReg {s t : State} (h : EngineMove s t) {q : RegIndex}
    (hq : q ≠ 0xA ∧ q ≠ 0xB ∧ q ≠ 0xD ∧ q ≠ 0xE) : t.getReg q = s.getReg q := by
  obtain ⟨hA, hB, hD, hE⟩ := hq
  rcases h.engineOnly with h | ⟨r, v, hr, h⟩ <;> rw [h]
  · rfl
  · rcases hr with rfl | rfl | rfl | rfl
    exacts [getReg_setReg_other s v hA, getReg_setReg_other s v hB, getReg_setReg_other s v hD, getReg_setReg_other s v hE]

/-- Nothing but the fade channels, the registers and the history differs. -/
def FadesOnly (s t : State) : Prop := t = { s with fadeCd := t.fadeCd, fadeAd := t.fadeAd, reg := t.reg, hist := t.hist }

theorem FadeMove.fadesOnly {s t : State} (h : FadeMove s t) : FadesOnly s t := by
  cases h with
  | write v =>
    unfold fadeWrite selectProgram
    split
    · rfl
    · split <;> rfl
  | up ch _ => cases ch <;> rfl
  | down ch _ => cases ch <;> rfl

theorem FadeMove.bus {s t : State} (h : FadeMove s t) : t.bus = s.bus := by rw [h.fadesOnly]

theorem FadeMove.audio {s t : State} (h : FadeMove s t) : t.audio = s.audio := by rw [h.fadesOnly]

theorem FadeMove.adpcm {s t : State} (h : FadeMove s t) : t.adpcm = s.adpcm := by rw [h.fadesOnly]

theorem selectProgram_reg (p : BitVec 4) (s : State) : (selectProgram p s).reg = s.reg := by
  unfold selectProgram
  split <;> rfl

theorem FadeMove.getReg {s t : State} (h : FadeMove s t) {q : RegIndex} (hq : q ≠ 0xF) : t.getReg q = s.getReg q := by
  cases h with
  | write v =>
    refine (getReg_setReg_other _ v hq).trans (getReg_congr ?_ q)
    split
    · rfl
    · exact selectProgram_reg _ s
  | up ch _ => cases ch <;> rfl
  | down ch _ => cases ch <;> rfl

/-- What no move changes: the parameters and the schedule (10_state.md R49), where it stands (R21), the fault (R46), and the end of the
disc (R31). -/
def runFields (s : State) : Config × List HostWord × Nat × Option Fault × Frame :=
  (s.config, s.program, s.hpc, s.fault, s.audio.lastFrame)

theorem config_of_runFields {s t : State} (h : runFields t = runFields s) : t.config = s.config := congrArg (·.1) h

theorem program_of_runFields {s t : State} (h : runFields t = runFields s) : t.program = s.program := congrArg (·.2.1) h

theorem lastFrame_of_runFields {s t : State} (h : runFields t = runFields s) : t.audio.lastFrame = s.audio.lastFrame :=
  congrArg (·.2.2.2.2) h

theorem PumpEffect.runFields {s t : State} (h : PumpEffect s t) : runFields t = runFields s := by
  simp only [Machine.runFields, h.config, h.program, h.hpc, h.fault, h.lastFrame]

theorem EngineMove.runFields {s t : State} (h : EngineMove s t) : runFields t = runFields s := by
  rcases h.engineOnly with h | ⟨r, v, -, h⟩ <;> rw [h] <;> rfl

theorem FadeMove.runFields {s t : State} (h : FadeMove s t) : runFields t = runFields s := by
  rw [h.fadesOnly]
  rfl

/-- Everything a poll can do: the end of playback acts on its arming and on IRQ_DONE, or starts the player again
(41_scsi_commands.md R201, R202). -/
theorem pollAnswered_cases {ended : Bool} {s t : State} (h : pollAnswered ended s = .ok t) :
    t = s ∨ (∃ e, t = s.push e) ∨ t = { s with audio.endOfTrackArmed := false } ∨
    t = { s with audio.endOfTrackArmed := false, bus.irqStatus := s.bus.irqStatus ||| irqDone } := by
  unfold pollAnswered at h
  split at h
  · unfold audioEnded at h
    split at h
    · obtain ⟨-, rfl⟩ := startPlayer_ok h
      exact .inr (.inl ⟨_, rfl⟩)
    · cases h; exact .inr (.inr (.inr rfl))
    · cases h; exact .inr (.inr (.inl rfl))
    · cases h; exact .inr (.inr (.inl rfl))
  · cases h; exact .inl rfl

theorem askSector_runFields (s : State) : runFields (askSector s) = runFields s := by
  unfold askSector
  split <;> rfl

theorem loadSector_runFields (s : State) : runFields (loadSector s) = runFields s := by
  unfold loadSector
  dsimp only
  split <;> exact askSector_runFields s

theorem PrePump.runFields {s t : State} (h : PrePump s t) : runFields t = runFields s := by
  cases h with
  | write7 v => unfold Machine.write7; dsimp only; split <;> rfl
  | select v hp => exact (pump_effect hp).runFields
  | engine hm => exact hm.runFields
  | dmaMove _ ha => exact (accessor_effect ha).runFields
  | fade hm => exact hm.runFields
  | sector _ _ => exact loadSector_runFields s
  | poll ended hp => rcases pollAnswered_cases hp with rfl | ⟨e, rfl⟩ | rfl | rfl <;> rfl
  | _ => rfl

theorem StepMove.runFields {s t : State} (h : StepMove s t) : runFields t = runFields s := by
  cases h with
  | dataRead ha => exact (accessor_effect ha).runFields
  | portRead => unfold Machine.portRead; split <;> rfl
  | pumped hu hp => exact (pump_effect hp).runFields.trans hu.runFields
  | _ => rfl

/-! ## O13: the parameters of the run -/

theorem step_keepsParameters {s t : State} (h : step s = .next t) : t.config = s.config ∧ t.program = s.program := by
  obtain ⟨u, hu, rfl⟩ := step_moves h
  have hc : u.config = s.config := config_of_runFields hu.runFields
  have hp : u.program = s.program := program_of_runFields hu.runFields
  exact ⟨hc, hp⟩

/-- Settles O13: every move leaves the run's frame alone, and a recorded fault is no move. -/
theorem stepKeepsParameters : Obligations.StepKeepsParameters := by
  refine ⟨fun s t => step_keepsParameters, fun s => ?_⟩
  cases hs : step s with
  | next t => rw [stateAfter_next hs]; exact step_keepsParameters hs
  | fault f => rw [stateAfter_fault hs]; exact ⟨rfl, rfl⟩
  | refused r => rw [stateAfter_refused hs]; exact ⟨rfl, rfl⟩

/-! ## O9, O12, O14: the outcomes of a step -/

theorem settle_total (s : State) (r : Result) : ∃ t, settle s r = .next t := by
  cases r <;> exact ⟨_, rfl⟩

theorem agentStep_total (a : Agent) (r : Result) (s : State) :
    (∃ t, agentStep a r s = .next t) ∨ agentStep a r s = .refused (.notEnabled a) := by
  unfold agentStep
  split
  · exact .inl (settle_total s r)
  · exact .inr rfl

/-- An instruction gives a next state, or is the event of an agent that is not enabled; a raise is a next state too (log 2). -/
theorem exec_total (i : Instr) (s : State) :
    (∃ t, exec i s = .next t) ∨ ∃ a, exec i s = .refused (.notEnabled a) := by
  cases i with
  | rd0x0 | rd0x1 | rd0x2 | rd0x3 | rd0x4 | rd0x5 | rd0x6 | rd0x7 | rd0x9 | rd0xA | rd0xB | rd0xC | rd0xD | rd0xE | rd0xF =>
    exact .inl ⟨_, rfl⟩
  | evTickSector | evTickDma | evTickNibble | evFadeCdIn | evFadeCdOut | evFadeAdIn | evFadeAdOut =>
    exact (agentStep_total _ _ s).imp_right fun h => ⟨_, h⟩
  | evPollAudio answer => exact (agentStep_total .audioEndPoll _ s).imp_right fun h => ⟨_, h⟩
  | reserved low => exact .inl ⟨_, rfl⟩
  | _ => exact .inl (settle_total s _)

theorem exec_ne_fault (i : Instr) (s : State) (f : Fault) : exec i s ≠ .fault f := by
  intro h
  rcases exec_total i s with ⟨t, ht⟩ | ⟨a, ha⟩
  · rw [ht] at h; cases h
  · rw [ha] at h; cases h

/-- The step of a word that decodes is the end of its instruction (30_encoding.md R103). -/
theorem step_of_decoded {s : State} {w : HostWord} {i : Instr} (hf : s.fault = none) (hw : s.program[s.hpc]? = some w)
    (hd : decodeHostOp w = .ok i) : step s = finishStep (exec i s) := by
  have hw : fetchWord s = some w := hw
  simp only [step, hf, hw, hd]

/-- Settles O9. -/
theorem stepRunsDecodedInstruction : Obligations.StepRunsDecodedInstruction := by
  intro s w i hf hw hd
  rw [step_of_decoded hf hw hd]
  refine ⟨fun t ht hn => ?_, fun t f ht hn => ?_, exec_ne_fault i s, fun r hr => ?_⟩
  · simp only [ht, finishStep, finishState, State.push, hn]
  · simp only [ht, finishStep, hn]
  · simp only [hr, finishStep]

theorem agentStep_of_not_enabled {a : Agent} {s : State} (r : Result) (h : agentEnabled s a = false) :
    agentStep a r s = .refused (.notEnabled a) := by
  unfold agentStep
  rw [h]
  rfl

theorem step_of_programEnded {s : State} (hf : s.fault = none) (h : s.program.length ≤ s.hpc) :
    step s = .refused .programEnded := by
  have hw : fetchWord s = none := List.getElem?_eq_none h
  simp only [step, hf, hw]

/-- Settles O12. -/
theorem notEnabledIsRejected : Obligations.NotEnabledIsRejected := by
  intro s
  have off {x : FadeTimer} (h : x = .off) : x.isArmed = false := by rw [h]; rfl
  exact ⟨agentStep_of_not_enabled (a := .sectorTimer) _, agentStep_of_not_enabled (a := .dmaTimer) _,
    agentStep_of_not_enabled (a := .nibbleClock) _, fun h => agentStep_of_not_enabled (a := .fadeCdIn) _ (off h),
    fun h => agentStep_of_not_enabled (a := .fadeCdOut) _ (off h), fun h => agentStep_of_not_enabled (a := .fadeAdIn) _ (off h),
    fun h => agentStep_of_not_enabled (a := .fadeAdOut) _ (off h), fun hf h => step_of_programEnded hf h.ge⟩

/-- The `irq` line is high exactly when an enabled source is (10_state.md R47). -/
theorem irqLine_iff (s : State) : irqLine s = true ↔ s.getReg 0x2 &&& s.bus.irqStatus &&& irqShown ≠ 0 := by
  simp only [irqLine, bne_iff_ne]

/-- The end of a step records the level of the state it leaves (20_memory.md R79). -/
theorem finishState_getLast? (s : State) : (finishState s).hist.getLast? = some (.irq (irqLine (finishState s))) := by
  simp only [finishState, push_hist, List.getLast?_concat]
  rfl

/-- Settles O14. -/
theorem irqLineLevel : Obligations.IrqLineLevel := by
  refine ⟨irqLine_iff, fun s t h => ?_⟩
  obtain ⟨u, -, rfl⟩ := step_moves h
  exact finishState_getLast? u

/-! ## O15: power-on -/

theorem getReg_powerOn (config : Config) (program : List HostWord) (answers : List Frame) (r : RegIndex) :
    (State.powerOn config program answers).getReg r = 0 := by
  simp [State.getReg, State.powerOn]

/-- A frame number that fits is the sum of its parts in 32 bits (20_memory.md R74). -/
theorem toFrame_add {a b : Frame} (h : a.toNat + b.toNat < 2 ^ 32) : toFrame (a.toNat + b.toNat) = a + b := by
  rw [toFrame, if_pos h, BitVec.add_def]

/-- One past 32 bits is a free value (log 12). -/
theorem toFrame_of_ge {n : Nat} (h : 2 ^ 32 ≤ n) : toFrame n = Config.frameOverflow n := by
  rw [toFrame, if_neg (Nat.not_lt.mpr h)]

/-- The end of a disc is the end of its last track (20_memory.md R74). -/
theorem endOfDisc_of_getLast? {d : Disc} {t : Track} (h : d.tracks.getLast? = some t) :
    endOfDisc (some d) = toFrame (t.start.toNat + t.frames.toNat) := by
  simp only [endOfDisc, discEnd, h, trackEndNat]

/-- Settles O15: the fields are those of `State.powerOn`, and the end of the disc is computed from the last track. -/
theorem powerOnValues : Obligations.PowerOnValues := by
  intro config program answers
  have lastFrame : (State.powerOn config program answers).audio.lastFrame = endOfDisc config.disc := rfl
  refine ⟨rfl, rfl, rfl, rfl, rfl, fun _ => rfl, rfl, rfl, rfl, rfl, rfl, fun h => ?_, fun d t h ht hlt => ?_,
    fun d t h ht hge => ?_, rfl, rfl, fun _ => rfl, rfl, rfl, rfl, rfl, rfl, getReg_powerOn config program answers, rfl, rfl,
    rfl, rfl, rfl⟩
  · rw [lastFrame, h]
    rfl
  · rw [lastFrame, h, endOfDisc_of_getLast? ht, toFrame_add hlt]
  · rw [lastFrame, h, endOfDisc_of_getLast? ht, toFrame_of_ge hge]

end Sys2Proof.Machine

/-! PROOFS. O53: every step keeps the invariant of the ADPCM engine. -/

namespace Sys2Proof.Machine

/-- The invariant is about the engine but for its two DMA flags, the parameters and registers 0xD and 0xE. -/
theorem AdpcmInv.congr {s t : State} (h : AdpcmInv s)
    (ha : t.adpcm = { s.adpcm with dmaTimerArmed := t.adpcm.dmaTimerArmed, dmaBusy := t.adpcm.dmaBusy })
    (hc : t.config = s.config) (hD : t.getReg 0xD = s.getReg 0xD) (hE : t.getReg 0xE = s.getReg 0xE) : AdpcmInv t where
  ramWf := by rw [ha]; exact h.ramWf
  readHoldoff := by rw [ha]; exact h.readHoldoff
  writeHoldoff := by rw [ha]; exact h.writeHoldoff
  playAddress := by rw [ha]; exact h.playAddress
  playInside := by rw [ha, hc]; exact h.playInside
  divider := by rw [ha, hE]; exact h.divider
  playBit := by rw [ha, hD]; exact h.playBit

theorem PumpEffect.adpcmInv {s t : State} (e : PumpEffect s t) (h : AdpcmInv s) : AdpcmInv t :=
  h.congr (by rw [e.adpcm]) e.config (getReg_congr e.reg _) (getReg_congr e.reg _)

/-- A byte stored in a register the invariant does not name. -/
theorem AdpcmInv.setReg {s : State} (h : AdpcmInv s) {r : RegIndex} (v : Byte) (hD : 0xD ≠ r) (hE : 0xE ≠ r) :
    AdpcmInv (s.setReg r v) :=
  h.congr rfl rfl (getReg_setReg_other s v hD) (getReg_setReg_other s v hE)

/-- A store keeps RAM in its canonical form (20_memory.md R72). -/
theorem AdpcmInv.storeAtWritePointer {s : State} (h : AdpcmInv s) (v : Byte) : AdpcmInv (storeAtWritePointer v s) :=
  { h with ramWf := memoryWf_memWrite h.ramWf _ v }

/-! ## The control write (42_adpcm_dma.md R237) -/

/-- The invariant without its clause on bit 6 of register 0xD, which a control write stores last. -/
structure EngineSound (s : State) : Prop where
  ramWf        : memoryWf s.adpcm.ram = true
  readHoldoff  : s.adpcm.readHoldoff ≤ 2
  writeHoldoff : s.adpcm.writeHoldoff ≤ 1
  playAddress  : s.adpcm.playStartAddress ≤ Config.ramBytes
  playInside   : s.config.playAddrWrap = true ∨ s.adpcm.playing = true → s.adpcm.playStartAddress < Config.ramBytes
  divider      : s.adpcm.clockDivider = 16 - ((s.getReg 0xE).extractLsb' 0 4).toNat

theorem AdpcmInv.sound {s : State} (h : AdpcmInv s) : EngineSound s :=
  ⟨h.ramWf, h.readHoldoff, h.writeHoldoff, h.playAddress, h.playInside, h.divider⟩

theorem EngineSound.adpcmInv {s : State} (h : EngineSound s) (hp : s.adpcm.playing = true → (s.getReg 0xD)[6] = true) :
    AdpcmInv s :=
  ⟨h.ramWf, h.readHoldoff, h.writeHoldoff, h.playAddress, h.playInside, h.divider, hp⟩

/-- A stop keeps the play address inside RAM where PLAY_ADDR_WRAP asks for it. -/
theorem EngineSound.playStop {s : State} (h : EngineSound s) : EngineSound (playStop s) :=
  { h with playInside := fun hw => h.playInside (hw.imp_right nofun) }

/-- Play start takes a 16-bit address. -/
theorem EngineSound.playStart {s : State} (h : EngineSound s) : EngineSound (playStart s) :=
  { h with playAddress := s.adpcm.readPointer.isLt.le, playInside := fun _ => s.adpcm.readPointer.isLt }

theorem EngineSound.adpcmReset {s : State} (h : EngineSound s) : EngineSound (adpcmReset s) :=
  EngineSound.playStop { h with playAddress := Nat.zero_le _, playInside := fun _ => Nat.zero_lt_succ _ }

theorem EngineSound.controlReset {s : State} (h : EngineSound s) (old v : Byte) : EngineSound (controlReset old v s) := by
  unfold Machine.controlReset
  split
  · exact h.adpcmReset
  · exact h

theorem EngineSound.controlPlay {s : State} (h : EngineSound s) (old v : Byte) : EngineSound (controlPlay old v s) := by
  unfold Machine.controlPlay
  split
  · exact h.playStart
  · split
    · exact h.playStop
    · exact h

theorem EngineSound.controlLength {s : State} (h : EngineSound s) (a : Addr) (v : Byte) :
    EngineSound (controlLength a v s) := by
  unfold Machine.controlLength
  split
  · exact { h with }
  · exact h

theorem EngineSound.controlReadAddress {s : State} (h : EngineSound s) (a : Addr) (v : Byte) :
    EngineSound (controlReadAddress a v s) := by
  unfold Machine.controlReadAddress
  split
  · exact { h with readHoldoff := le_refl 2 }
  · exact h

theorem EngineSound.controlWriteAddress {s : State} (h : EngineSound s) (a : Addr) (v : Byte) :
    EngineSound (controlWriteAddress a v s) := by
  unfold Machine.controlWriteAddress
  split
  · refine { h with writeHoldoff := ?_ }
    dsimp only
    split <;> decide
  · exact h

/-- After bit 6 has acted, the engine plays only where the bit is set (42_adpcm_dma.md R237). -/
theorem controlPlay_playing {old v : Byte} {s : State} (h : (controlPlay old v s).adpcm.playing = true) : v[6] = true := by
  unfold controlPlay at h
  by_cases hv : v[6] = true
  · exact hv
  · simp [hv, playStop] at h

/-- The address bits of a control write start and stop nothing. -/
theorem controlAddresses_playing (a : Addr) (v : Byte) (s : State) :
    (controlWriteAddress a v (controlReadAddress a v (controlLength a v s))).adpcm.playing = s.adpcm.playing := by
  have hl : (controlLength a v s).adpcm.playing = s.adpcm.playing := by unfold controlLength; split <;> rfl
  have hr : ∀ t, (controlReadAddress a v t).adpcm.playing = t.adpcm.playing := by
    intro t; unfold controlReadAddress; split <;> rfl
  have hw : ∀ t, (controlWriteAddress a v t).adpcm.playing = t.adpcm.playing := by
    intro t; unfold controlWriteAddress; split <;> rfl
  rw [hw, hr, hl]

theorem AdpcmInv.controlWrite {s : State} (h : AdpcmInv s) (v : Byte) : AdpcmInv (adpcmControlWrite v s) := by
  have hs := ((((h.sound.controlReset (s.getReg 0xD) v).controlPlay (s.getReg 0xD) v).controlLength (addr16 s) v).controlReadAddress
    (addr16 s) v).controlWriteAddress (addr16 s) v
  refine EngineSound.adpcmInv { hs with divider := ?_ } fun hp => ?_
  · exact hs.divider.trans (by rw [adpcmControlWrite, getReg_setReg_other _ v (by decide)])
  · rw [adpcmControlWrite, setReg_adpcm, controlAddresses_playing] at hp
    rw [adpcmControlWrite, getReg_setReg_same]
    exact controlPlay_playing hp

/-! ## The other moves -/

theorem AdpcmInv.portWrite {s : State} (h : AdpcmInv s) (v : Byte) : AdpcmInv (portWrite v s) := by
  have hr : AdpcmInv (s.setReg 0xA v) := h.setReg v (by decide) (by decide)
  unfold Machine.portWrite
  dsimp only
  split
  · exact hr.storeAtWritePointer v
  · exact { hr with writeHoldoff := (Nat.sub_le _ _).trans hr.writeHoldoff }

theorem AdpcmInv.dmaControlWrite {s : State} (h : AdpcmInv s) (v : Byte) : AdpcmInv (dmaControlWrite v s) := by
  have hr : AdpcmInv (s.setReg 0xB v) := h.setReg v (by decide) (by decide)
  unfold Machine.dmaControlWrite
  dsimp only
  split
  · exact hr
  · exact { hr with }

/-- The divider is the one register 0xE gives (42_adpcm_dma.md R243). -/
theorem AdpcmInv.rateWrite {s : State} (h : AdpcmInv s) (v : Byte) : AdpcmInv (rateWrite v s) :=
  { h with
    divider := by
      have hE : (Machine.rateWrite v s).getReg 0xE = v := getReg_setReg_same s 0xE v
      rw [hE]
      rfl
    playBit := fun hp => (congrArg (·[6]) (getReg_setReg_other s v (by decide : (0xD : RegIndex) ≠ 0xE))).trans (h.playBit hp) }

theorem AdpcmInv.dmaStall {s : State} (h : AdpcmInv s) : AdpcmInv (dmaStall s) := by
  unfold Machine.dmaStall
  dsimp only
  split <;> exact { h with }

/-- The address after the played one is inside RAM, or one past it where it does not wrap (42_adpcm_dma.md R241). -/
theorem nextPlayAddress_le {wrap : Bool} {a : Nat} (h : a < Config.ramBytes) :
    nextPlayAddress wrap a ≤ Config.ramBytes ∧ (wrap = true → nextPlayAddress wrap a < Config.ramBytes) := by
  have hm : (a + 1) % Config.ramBytes < Config.ramBytes := Nat.mod_lt _ (by decide)
  unfold nextPlayAddress
  split
  · exact ⟨hm.le, fun _ => hm⟩
  · exact ⟨h, fun hw => absurd hw ‹_›⟩

/-- A low nibble moves the play address on; one that leaves RAM is past the end, which stops playback (42_adpcm_dma.md R241). -/
theorem AdpcmInv.lowNibble {s : State} (h : AdpcmInv s) (hp : s.adpcm.playing = true) : AdpcmInv (lowNibble s) := by
  obtain ⟨hle, hwrap⟩ := nextPlayAddress_le (wrap := s.config.playAddrWrap) (h.playInside (.inr hp))
  unfold Machine.lowNibble
  dsimp only
  split
  · exact { h with playAddress := hle, playInside := fun hw => hwrap (hw.resolve_right nofun), playBit := nofun }
  · rename_i hend
    exact { h with
      playAddress := hle
      playInside := fun _ => (Nat.le_of_not_lt hend).trans_lt s.adpcm.playEndAddress.isLt }

theorem EngineMove.adpcmInv {s t : State} (hm : EngineMove s t) (h : AdpcmInv s) : AdpcmInv t := by
  cases hm with
  | portWrite v => exact h.portWrite v
  | dmaControlWrite v => exact h.dmaControlWrite v
  | controlWrite v => exact h.controlWrite v
  | rateWrite v => exact h.rateWrite v
  | dmaStall => exact h.dmaStall
  | lowNibble hp => exact h.lowNibble hp
  | highNibble _ => exact { h with }

theorem loadSector_adpcm (s : State) : (loadSector s).adpcm = s.adpcm := by
  unfold loadSector askSector
  dsimp only
  split <;> split <;> rfl

theorem loadSector_reg (s : State) : (loadSector s).reg = s.reg := by
  unfold loadSector askSector
  dsimp only
  split <;> split <;> rfl

theorem PrePump.adpcmInv {s t : State} (hm : PrePump s t) (h : AdpcmInv s) : AdpcmInv t := by
  cases hm with
  | nothing => exact h
  | store v hr => rcases hr with rfl | rfl | rfl | rfl <;> exact h.setReg v (by decide) (by decide)
  | write1 v => exact { h.setReg (r := 0x1) v (by decide) (by decide) with }
  | write2 v => exact { h.setReg (r := 0x2) v (by decide) (by decide) with }
  | write4 v => exact { h.setReg (r := 0x4) v (by decide) (by decide) with }
  | write7 v =>
    have hr := h.setReg (r := 0x7) v (by decide) (by decide)
    unfold Machine.write7
    dsimp only
    split
    · exact { hr with }
    · exact hr
  | select v hp =>
    have hr := h.setReg (r := 0x0) v (by decide) (by decide)
    exact { (pump_effect hp).adpcmInv { hr with } with }
  | engine hm => exact hm.adpcmInv h
  | dmaMove _ ha => exact { ((accessor_effect ha).adpcmInv h).storeAtWritePointer s.bus.dataReg with }
  | fade hm =>
    exact h.congr (by rw [hm.adpcm]) (config_of_runFields hm.runFields) (hm.getReg (by decide)) (hm.getReg (by decide))
  | sector _ _ =>
    exact h.congr (by rw [loadSector_adpcm]) (config_of_runFields (loadSector_runFields s))
      (getReg_congr (loadSector_reg s) _) (getReg_congr (loadSector_reg s) _)
  | poll ended hp => rcases pollAnswered_cases hp with rfl | ⟨e, rfl⟩ | rfl | rfl <;> exact { h with }

theorem AdpcmInv.portRead {s : State} (h : AdpcmInv s) : AdpcmInv (portRead s) := by
  unfold Machine.portRead
  split
  · exact { h with }
  · exact { h with readHoldoff := (Nat.sub_le _ _).trans h.readHoldoff }

theorem StepMove.adpcmInv {s t : State} (hm : StepMove s t) (h : AdpcmInv s) : AdpcmInv t := by
  cases hm with
  | dataRead ha => exact (accessor_effect ha).adpcmInv { h with }
  | portRead => exact AdpcmInv.portRead { h with }
  | pumped hu hp => exact (pump_effect hp).adpcmInv (hu.adpcmInv h)
  | _ => exact { h with }

/-- Settles O53: every move keeps the invariant, by the unit that makes it. -/
theorem stepKeepsAdpcmInv : Obligations.StepKeepsAdpcmInv :=
  step_keeps (fun _ _ h hm => hm.adpcmInv h) (fun _ h => { h with }) (fun _ _ h => { h with })

end Sys2Proof.Machine

/-! PROOFS. O52: every step keeps the invariant of the bus. -/

namespace Sys2Proof.Machine

/-- What holds of the bus inside a pump as well: the clauses of `BusInv` that do not rest on the fixed point, on SEL or on the lines the
host drives. -/
structure BusSound (b : Bus) : Prop where
  noAtn        : b.atn = false
  busySelected : b.bsy = true → b.selected = true
  reqBusy      : b.req = true → b.bsy = true
  noDataOut    : b.bsy = true → b.cd = true ∨ b.io = true
  noMessageOut : b.bsy = true → b.cd = true → b.msg = true → b.io = true
  commandBytes : b.commandBuffer.length ≤ Config.commandCapacity
  indexInside  : b.dataIndex ≤ b.dataSize
  sizeWritten  : b.dataSize ≤ b.dataBuffer.length
  sizeBound    : b.dataSize ≤ Config.sectorBytes
  bufferBound  : b.dataBuffer.length ≤ Config.dataCapacity
  irqSources   : b.irqStatus &&& ~~~(irqReady ||| irqDone) = 0

/-- ACK and RST as registers 0x2 and 0x4 drive them (44_host_registers.md R302, R304). -/
structure LinesDriven (s : State) : Prop where
  ack : s.bus.ack = (s.getReg 0x2)[7]
  rst : s.bus.rst = (s.getReg 0x4)[1]

theorem BusInv.sound {s : State} (h : BusInv s) : BusSound s.bus :=
  { h with busySelected := fun hb => h.selectedBusy.trans hb }

theorem BusInv.driven {s : State} (h : BusInv s) : LinesDriven s := ⟨h.ackDriven, h.rstDriven⟩

/-- At rest no RST edge is left unseen and no release is due (40_bus_phases.md R141, R142). -/
theorem AtRest.lines {s : State} (h : AtRest s) :
    s.bus.rst = s.bus.lastRst ∧ (!s.bus.sel && !s.bus.bsy && s.bus.selected) = false := by
  have hq := quiet_of_atRest h
  simp only [quietBus, Bool.and_eq_true, decide_eq_true_eq, Bool.not_eq_true'] at hq
  exact ⟨hq.1.1.1, hq.1.1.2⟩

/-- At rest the phase of a busy bus is quiet (40_bus_phases.md R154). -/
theorem AtRest.quietPhase {s : State} (h : AtRest s) (hb : s.bus.bsy = true) (ha : s.bus.atn = false) :
    quietPhase s.bus (phaseOf s.bus) = true := by
  have hq := quiet_of_atRest h
  simp only [quietBus, Bool.and_eq_true, hb, ha, Bool.not_false, Bool.and_self, Bool.not_true, Bool.false_or] at hq
  exact hq.2

/-- A quiet phase other than the two that have no handshake never shows REQ with ACK (40_bus_phases.md R158). -/
theorem not_req_ack_of_quietPhase {b : Bus} {p : Phase} (h : quietPhase b p = true) (hf : p ≠ .busFree)
    (hm : p ≠ .messageOut) : ¬ (b.req = true ∧ b.ack = true) := by
  rintro ⟨hr, ha⟩
  cases p with
  | busFree => exact hf rfl
  | messageOut => exact hm rfl
  | _ => simp [Machine.quietPhase, hr, ha] at h

/-- A busy bus that is not in MessageOut is in neither phase without a handshake (40_bus_phases.md R144, R146). -/
theorem BusSound.phaseOf_ne {b : Bus} (h : BusSound b) (hb : b.bsy = true) :
    phaseOf b ≠ .busFree ∧ phaseOf b ≠ .messageOut := by
  have hm := h.noMessageOut hb
  unfold phaseOf
  split <;> simp_all

/-- A sound bus at rest, with SEL low and the lines driven, has the whole invariant. -/
theorem BusSound.busInv {s : State} (h : BusSound s.bus) (hsel : s.bus.sel = false) (hd : LinesDriven s) (hr : AtRest s) :
    BusInv s := by
  obtain ⟨hrst, hrelease⟩ := hr.lines
  exact
    { h with
      atRest := hr
      noSel := hsel
      rstSeen := hrst.symm
      ackDriven := hd.ack
      rstDriven := hd.rst
      selectedBusy := by
        cases hb : s.bus.bsy with
        | true => exact h.busySelected hb
        | false => simpa [hsel, hb] using hrelease
      noReqAck := fun hra => by
        have hb := h.reqBusy hra.1
        obtain ⟨hf, hm⟩ := h.phaseOf_ne hb
        exact not_req_ack_of_quietPhase (hr.quietPhase hb h.noAtn) hf hm hra }

/-- The invariant is about the bus and registers 0x2 and 0x4. -/
theorem BusInv.congr {s t : State} (h : BusInv s) (hb : t.bus = s.bus) (h2 : t.getReg 0x2 = s.getReg 0x2)
    (h4 : t.getReg 0x4 = s.getReg 0x4) : BusInv t :=
  BusSound.busInv (hb ▸ h.sound) (hb ▸ h.noSel) ⟨by rw [hb, h2]; exact h.ackDriven, by rw [hb, h4]; exact h.rstDriven⟩
    (atRest_congr hb h.atRest)

/-! ## The IRQ sources (10_state.md R30) -/

theorem irqSources_and {x : Byte} (h : x &&& ~~~(irqReady ||| irqDone) = 0) (y : Byte) :
    x &&& y &&& ~~~(irqReady ||| irqDone) = 0 := by
  rw [BitVec.and_assoc, BitVec.and_comm y, ← BitVec.and_assoc, h]
  exact BitVec.zero_and

theorem irqSources_or {x y : Byte} (h : x &&& ~~~(irqReady ||| irqDone) = 0) (hy : y &&& ~~~(irqReady ||| irqDone) = 0) :
    (x ||| y) &&& ~~~(irqReady ||| irqDone) = 0 := by
  rw [BitVec.and_or_distrib_right, h, hy]
  rfl

/-! ## A pass keeps the bus sound -/

/-- An overwritten buffer is as long as the longer of the two. -/
theorem overwrite_length (buffer bytes : List Byte) : (overwrite buffer bytes).length = max bytes.length buffer.length := by
  simp only [overwrite, List.length_append, List.length_drop]
  omega

theorem resetEdge_sound {s : State} (h : BusSound s.bus) : BusSound (resetEdge s).bus := by
  unfold resetEdge
  split
  · exact h
  · dsimp only
    split
    · exact { h with
        noAtn := rfl, busySelected := nofun, reqBusy := nofun, noDataOut := nofun, noMessageOut := nofun }
    · exact { h with }

theorem busRelease_sound {s : State} (h : BusSound s.bus) : BusSound (busRelease s).bus := by
  unfold busRelease
  split
  · rename_i hfree
    simp only [Bool.and_eq_true, Bool.not_eq_true'] at hfree
    obtain ⟨⟨-, hb⟩, -⟩ := hfree
    have idle : s.bus.bsy ≠ true := by simp [hb]
    exact { h with
      busySelected := fun k => absurd k idle, reqBusy := nofun, noDataOut := fun k => absurd k idle
      noMessageOut := fun k => absurd k idle, irqSources := irqSources_and h.irqSources _ }
  · exact h

theorem select_sound {s : State} (h : BusSound s.bus) : BusSound (select s).bus := by
  unfold select
  split
  · exact { h with
      busySelected := fun _ => rfl, reqBusy := fun _ => rfl, noDataOut := fun _ => .inl rfl
      noMessageOut := fun _ _ => nofun }
  · exact h

theorem linePasses_sound {s : State} (h : BusSound s.bus) : BusSound (linePasses s).bus :=
  select_sound (busRelease_sound (resetEdge_sound h))

theorem BusSound.replyStatus {s : State} (h : BusSound s.bus) (hb : s.bus.bsy = true) (c : Status) :
    BusSound (replyStatus c s).bus :=
  { h with reqBusy := fun _ => hb, noDataOut := fun _ => .inl rfl, noMessageOut := fun _ _ => nofun }

/-- A data reply of a handler fits the buffer and one sector (41_scsi_commands.md R180). -/
theorem BusSound.replyData {s : State} (h : BusSound s.bus) {bytes : List Byte} (hl : bytes.length ≤ 10) :
    BusSound (replyData bytes s).bus :=
  { h with
    noDataOut := fun _ => .inr rfl
    noMessageOut := fun _ => nofun
    indexInside := Nat.zero_le _
    sizeWritten := by rw [replyData_bus_dataBuffer, overwrite_length]; exact le_max_left _ _
    sizeBound := hl.trans (by decide)
    bufferBound := by
      rw [replyData_bus_dataBuffer, overwrite_length]
      exact max_le (hl.trans (by decide)) h.bufferBound }

/-- A command handler keeps a busy bus sound, by the shape of its reply. -/
theorem HandlerEffect.sound {s t : State} (e : HandlerEffect s t) (h : BusSound s.bus) (hb : s.bus.bsy = true) :
    BusSound t.bus := by
  rcases e.bus with ht | ⟨c, ht⟩ | ⟨bytes, -, hl, ht⟩ <;> rw [ht]
  · exact h
  · exact h.replyStatus hb c
  · exact h.replyData hl

/-- In Status phase I/O is high (40_bus_phases.md R144). -/
theorem io_of_phaseOf_status {b : Bus} (h : phaseOf b = .status) : b.io = true := by
  unfold phaseOf at h
  split at h <;> cases h
  assumption

theorem PhaseMove.sound {s t : State} {p : Phase} (hm : PhaseMove s p t) (hp : phaseOf s.bus = p) (hb : s.bus.bsy = true)
    (h : BusSound s.bus) : BusSound t.bus := by
  cases hm with
  | stay => exact h
  | commandByte _ _ hl =>
    refine { h with reqBusy := nofun, commandBytes := ?_ }
    rw [List.length_append]
    exact Nat.lt_of_le_of_ne h.commandBytes hl
  | commandMore => exact { h with reqBusy := fun _ => hb }
  | commandRun _ _ _ _ hh => exact (handler_effect hh).sound { h with commandBytes := Nat.zero_le _ } hb
  | statusTaken => exact { h with reqBusy := nofun }
  | statusMessage =>
    have hio : s.bus.io = true := io_of_phaseOf_status hp
    exact { h with reqBusy := fun _ => hb, noMessageOut := fun _ _ _ => hio }
  | statusOnly => exact { h with }
  | messageTaken => exact { h with reqBusy := nofun }
  | messageDone hr _ _ =>
    exact { h with
      busySelected := nofun, reqBusy := fun k => absurd k (by simp [hr]), noDataOut := nofun, noMessageOut := nofun }
  | dataTaken => exact { h with reqBusy := nofun }
  | dataPlaced _ _ hi =>
    exact { h with reqBusy := fun _ => hb, indexInside := Nat.lt_of_le_of_ne h.indexInside hi }
  | dataWaits => exact { h with irqSources := irqSources_and h.irqSources _ }
  | dataDone =>
    exact { h with
      reqBusy := fun _ => hb, noDataOut := fun _ => .inl rfl, noMessageOut := fun _ _ => nofun
      irqSources := irqSources_or (irqSources_and h.irqSources _) (by decide) }

theorem pass_sound {s t : State} (h : BusSound s.bus) (hp : pass s = .ok t) : BusSound t.bus := by
  have hl := linePasses_sound h
  rcases pass_cases hp with ⟨hb, -, hm⟩ | ⟨-, rfl⟩
  · exact hm.sound rfl hb hl
  · exact hl

theorem pump_sound {s t : State} (h : BusSound s.bus) (hp : pump s = .ok t) : BusSound t.bus :=
  pump_keeps (P := fun s => BusSound s.bus) (fun _ _ => pass_sound) h hp

/-! ## Before the last pump -/

/-- What a pump turns into the invariant of the bus: a sound bus, SEL low, and the lines as their registers drive them. -/
structure BusReady (s : State) : Prop where
  sound  : BusSound s.bus
  noSel  : s.bus.sel = false
  driven : LinesDriven s

theorem BusInv.ready {s : State} (h : BusInv s) : BusReady s := ⟨h.sound, h.noSel, h.driven⟩

theorem PumpEffect.driven {s t : State} (e : PumpEffect s t) (h : LinesDriven s) : LinesDriven t :=
  ⟨by rw [e.ack, getReg_congr e.reg]; exact h.ack, by rw [e.rst, getReg_congr e.reg]; exact h.rst⟩

theorem PumpEffect.noSel {s t : State} (e : PumpEffect s t) (h : s.bus.sel = false) : t.bus.sel = false := by
  cases ht : t.bus.sel with
  | false => rfl
  | true => rw [e.sel ht] at h; cases h

theorem BusReady.pump {s t : State} (h : BusReady s) (hp : pump s = .ok t) : BusInv t :=
  have e := pump_effect hp
  (pump_sound h.sound hp).busInv (e.noSel h.noSel) (e.driven h.driven) (pump_atRest hp)

/-- The accessor pumps with ACK high and then low, so the bus is sound throughout and at rest in the end (40_bus_phases.md R155). -/
theorem BusInv.accessor {s t : State} (h : BusInv s) (ha : accessor s = .ok t) : BusInv t := by
  rcases accessor_cases ha with rfl | ⟨u, hu, ht⟩
  · exact h
  · have hs : BusSound u.bus := pump_sound (s := { s with bus.ack := true }) { h.sound with } hu
    have e := accessor_effect ha
    exact (pump_sound (s := { u with bus.ack := false }) { hs with } ht).busInv (e.noSel h.noSel) (e.driven h.driven)
      (pump_atRest ht)

/-- A register that drives no line. -/
theorem LinesDriven.setReg {s : State} (h : LinesDriven s) {r : RegIndex} (v : Byte) (h2 : 0x2 ≠ r) (h4 : 0x4 ≠ r) :
    LinesDriven (s.setReg r v) :=
  ⟨by rw [getReg_setReg_other s v h2]; exact h.ack, by rw [getReg_setReg_other s v h4]; exact h.rst⟩

/-- Registers 0x2 and 0x4 stay what they are while the lines do. -/
theorem LinesDriven.congr {s t : State} (h : LinesDriven s) (hack : t.bus.ack = s.bus.ack) (hrst : t.bus.rst = s.bus.rst)
    (h2 : t.getReg 0x2 = s.getReg 0x2) (h4 : t.getReg 0x4 = s.getReg 0x4) : LinesDriven t :=
  ⟨by rw [hack, h2]; exact h.ack, by rw [hrst, h4]; exact h.rst⟩

/-- The bus with a sector of bytes in its buffer, the last one or not (41_scsi_commands.md R200). -/
def sectorBus (b : Bus) (bytes : List Byte) (last : Bool) : Bus :=
  { b with
    dataBuffer := overwrite b.dataBuffer bytes, dataIndex := 0, dataSize := Config.sectorBytes
    io := true, cd := false, irqStatus := b.irqStatus ||| irqReady, dataTransferred := last }

theorem askSector_bus (s : State) : (askSector s).bus = s.bus := by
  unfold askSector
  split <;> rfl

theorem loadSector_bus (s : State) : ∃ last, (loadSector s).bus = sectorBus s.bus (sectorBytes s) last := by
  have hb := askSector_bus s
  unfold loadSector
  dsimp only
  split <;> exact ⟨_, by rw [hb]; rfl⟩

theorem BusSound.sectorBus {b : Bus} (h : BusSound b) {bytes : List Byte} (hl : bytes.length = Config.sectorBytes)
    (last : Bool) : BusSound (sectorBus b bytes last) :=
  have hlen : (Machine.sectorBus b bytes last).dataBuffer.length = max Config.sectorBytes b.dataBuffer.length :=
    (overwrite_length _ _).trans (by rw [hl])
  { h with
    noDataOut := fun _ => .inr rfl
    noMessageOut := fun _ => nofun
    indexInside := Nat.zero_le _
    sizeWritten := hlen ▸ le_max_left _ _
    sizeBound := le_refl _
    bufferBound := hlen ▸ max_le (by decide) h.bufferBound
    irqSources := irqSources_or h.irqSources (by decide) }

theorem BusReady.loadSector {s : State} (h : BusReady s) : BusReady (loadSector s) := by
  obtain ⟨last, hb⟩ := loadSector_bus s
  have hr := getReg_congr (loadSector_reg s)
  exact ⟨hb ▸ h.sound.sectorBus (sectorBytes_length s) last, by rw [hb]; exact h.noSel,
    h.driven.congr (by rw [hb]; rfl) (by rw [hb]; rfl) (hr _) (hr _)⟩

theorem PrePump.ready {s t : State} (hm : PrePump s t) (h : BusInv s) : BusReady t := by
  have hs := h.sound
  have hd := h.driven
  cases hm with
  | nothing => exact h.ready
  | store v hr => exact ⟨hs, h.noSel, by rcases hr with rfl | rfl | rfl | rfl <;> exact hd.setReg v (by decide) (by decide)⟩
  | write1 v =>
    exact ⟨{ hs with }, h.noSel, { hd.setReg (r := 0x1) v (by decide) (by decide) with }⟩
  | write2 v =>
    exact ⟨{ hs with }, h.noSel, congrArg (·[7]) (getReg_setReg_same s 0x2 v).symm,
      hd.rst.trans (congrArg (·[1]) (getReg_setReg_other s v (by decide)).symm)⟩
  | write4 v =>
    exact ⟨{ hs with }, h.noSel, hd.ack.trans (congrArg (·[7]) (getReg_setReg_other s v (by decide)).symm),
      congrArg (·[1]) (getReg_setReg_same s 0x4 v).symm⟩
  | write7 v =>
    have hr := hd.setReg (r := 0x7) v (by decide) (by decide)
    unfold Machine.write7
    dsimp only
    split <;> exact ⟨hs, h.noSel, { hr with }⟩
  | @select v u hp =>
    have hu : BusSound u.bus := pump_sound (s := { s.setReg 0x0 v with bus.sel := true }) { hs with } hp
    have hr : LinesDriven u := (pump_effect hp).driven { hd.setReg (r := 0x0) v (by decide) (by decide) with }
    exact ⟨{ hu with irqSources := irqSources_and hu.irqSources _ }, rfl, { hr with }⟩
  | engine hm => exact (h.congr hm.bus (hm.getReg (by decide)) (hm.getReg (by decide))).ready
  | dmaMove _ ha =>
    have hu := (h.accessor ha).ready
    exact ⟨hu.sound, hu.noSel, { hu.driven with }⟩
  | fade hm => exact (h.congr hm.bus (hm.getReg (by decide)) (hm.getReg (by decide))).ready
  | sector _ _ => exact h.ready.loadSector
  | poll ended hp =>
    rcases pollAnswered_cases hp with rfl | ⟨e, rfl⟩ | rfl | rfl
    · exact ⟨hs, h.noSel, { hd with }⟩
    · exact ⟨hs, h.noSel, { hd with }⟩
    · exact ⟨hs, h.noSel, { hd with }⟩
    · exact ⟨{ hs with irqSources := irqSources_or hs.irqSources (by decide) }, h.noSel, { hd with }⟩

theorem portRead_bus_reg (s : State) : (portRead s).bus = s.bus ∧ (portRead s).reg = s.reg := by
  unfold portRead
  split <;> exact ⟨rfl, rfl⟩

theorem StepMove.busInv {s t : State} (hm : StepMove s t) (h : BusInv s) : BusInv t := by
  cases hm with
  | dataRead ha =>
    have hr : BusInv (recordRead 0x8 s.bus.dataReg s) := h.congr rfl rfl rfl
    exact hr.accessor ha
  | portRead =>
    obtain ⟨hb, hr⟩ := portRead_bus_reg (recordRead 0xA (portValue s) s)
    exact h.congr hb (getReg_congr hr _) (getReg_congr hr _)
  | pumped hu hp => exact (hu.ready h).pump hp
  | _ => exact h.congr rfl rfl rfl

/-- Settles O52: what comes before a pump leaves the bus sound, every pass keeps it sound, and a sound bus at rest has the whole
invariant. -/
theorem stepKeepsBusInv : Obligations.StepKeepsBusInv :=
  step_keeps (fun _ _ h hm => hm.busInv h) (fun _ h => h.congr rfl rfl rfl) (fun _ _ h => h.congr rfl rfl rfl)

end Sys2Proof.Machine

/-! PROOFS. O55: every step keeps the invariant of the audio transport. -/

namespace Sys2Proof.Machine

/-- The invariant is about the audio transport and the disc. -/
theorem AudioInv.congr {s t : State} (h : AudioInv s) (ha : t.audio = s.audio) (hc : t.config = s.config) : AudioInv t :=
  ⟨by rw [ha, hc]; exact h.lastFrame, by rw [ha, hc]; exact h.reading, by rw [ha, hc]; exact h.playing,
    by rw [ha]; exact h.armed⟩

/-- The mode bits of SET-AUDIO-END other than 0 name an end action (30_encoding.md R113). -/
theorem playModeOf_ne_noEnd {code : BitVec 2} (h : code ≠ 0) : playModeOf code ≠ .noEnd := by
  revert code
  decide

/-! ## The command handlers -/

theorem stopActiveAudio_audioInv {s : State} (h : AudioInv s) : AudioInv (stopActiveAudio s) := by
  unfold stopActiveAudio
  split
  · exact h
  · exact { h with playing := nofun, armed := nofun }

theorem read6_audioInv {frame : BitVec 21} {count : Byte} {s t : State} (h : AudioInv s) (hr : read6 frame count s = .ok t) :
    AudioInv t := by
  unfold read6 at hr
  split at hr
  · cases hr; exact { h with }
  · rename_i d hd
    split at hr
    · cases hr; exact { h with }
    · cases hr
      have hs := stopActiveAudio_audioInv h
      have hc : (stopActiveAudio s).config.disc ≠ none := by simp [(stopActiveAudio_effect s).config, hd]
      exact { hs with reading := fun _ => hc }

theorem setAudioStart_audioInv {mode : BitVec 2} {addr : AudioAddr} {s t : State}
    (htable : StartModeTable.armsWithAction s.config.startMode) (h : AudioInv s) (hr : setAudioStart mode addr s = .ok t) :
    AudioInv t := by
  unfold setAudioStart at hr
  split at hr
  · cases hr; exact { h with }
  · rename_i d hd
    obtain ⟨f, -, hr⟩ := Except.bind_eq_ok hr
    obtain ⟨x, hx, hr⟩ := Except.bind_eq_ok hr
    obtain ⟨u, hu, hr⟩ := Except.bind_eq_ok hr
    obtain ⟨-, rfl⟩ := startPlayer_ok hu
    cases hr
    have hdisc : s.config.disc ≠ none := by simp [hd]
    exact { h with playing := fun _ => hdisc, armed := startMode_armsWithAction htable hx }

/-- What SET-AUDIO-END does to playback arms the poll only under the mode bits of an end action (41_scsi_commands.md R188). -/
theorem endPlayback_audioInv {mode : BitVec 2} {f : Frame} {s t : State} (hr : endPlayback mode f s = .ok t)
    (hdisc : s.config.disc ≠ none) (hmode : s.audio.playMode = playModeOf mode)
    (hlast : s.audio.lastFrame = endOfDisc s.config.disc) : AudioInv t := by
  unfold endPlayback at hr
  split at hr
  · cases hr
    exact ⟨hlast, fun _ => hdisc, fun _ => hdisc, nofun⟩
  · rename_i hne
    obtain ⟨u, hu, hr⟩ := Except.bind_eq_ok hr
    cases hr
    have hpush : ∃ e, u = s.push e := by
      unfold resumePlayer at hu
      split at hu
      · cases hu; exact ⟨_, rfl⟩
      · exact ⟨_, (startPlayer_ok hu).2⟩
    obtain ⟨e, rfl⟩ := hpush
    have hact : s.audio.playMode ≠ .noEnd := hmode ▸ playModeOf_ne_noEnd hne
    exact ⟨hlast, fun _ => hdisc, fun _ => hdisc, fun _ => hact⟩

theorem setAudioEnd_audioInv {mode : BitVec 2} {addr : AudioAddr} {s t : State} (h : AudioInv s)
    (hr : setAudioEnd mode addr s = .ok t) : AudioInv t := by
  unfold setAudioEnd at hr
  split at hr
  · cases hr; exact { h with }
  · rename_i d hd
    obtain ⟨f, -, hr⟩ := Except.bind_eq_ok hr
    obtain ⟨u, hu, hr⟩ := Except.bind_eq_ok hr
    cases hr
    have hdisc : s.config.disc ≠ none := by simp [hd]
    exact { endPlayback_audioInv hu hdisc rfl h.lastFrame with }

theorem pause_audioInv {s t : State} (h : AudioInv s) (hr : pause s = .ok t) : AudioInv t := by
  unfold pause at hr
  split at hr
  · cases hr; exact { h with }
  · cases hr; exact { h with }
  · rename_i hd _
    cases hr
    obtain ⟨e, -, ha⟩ := askPlayerFrame_effect s
    have hp : AudioInv (askPlayerFrame s) := h.congr ha e.config
    have hdisc : (askPlayerFrame s).config.disc ≠ none := by simp [e.config, hd]
    exact { hp with playing := fun _ => hdisc }

theorem getSubchannelQ_audio {s t : State} (hr : getSubchannelQ s = .ok t) : t.audio = s.audio := by
  unfold getSubchannelQ at hr
  split at hr
  · cases hr
  · obtain ⟨x, -, hr⟩ := Except.bind_eq_ok hr
    cases hr
    exact (askPosition_effect s).2.2

theorem getDirInfo_audio {subFunction track : Byte} {s t : State} (hr : getDirInfo subFunction track s = .ok t) :
    t.audio = s.audio := by
  unfold getDirInfo at hr
  split at hr
  · cases hr
  · split at hr
    · obtain ⟨d, -, hr⟩ := Except.bind_eq_ok hr
      cases hr; rfl
    · obtain ⟨d, -, hr⟩ := Except.bind_eq_ok hr
      cases hr; rfl
    · obtain ⟨d, -, hr⟩ := Except.bind_eq_ok hr
      obtain ⟨x, -, hr⟩ := Except.bind_eq_ok hr
      cases hr; rfl
    · cases hr

theorem testUnitReady_audio {s t : State} (hr : testUnitReady s = .ok t) : t.audio = s.audio := by
  unfold testUnitReady at hr
  split at hr <;> (cases hr; rfl)

theorem handler_audioInv {c : Command} {s t : State} (htable : StartModeTable.armsWithAction s.config.startMode)
    (h : AudioInv s) (hr : handler c s = .ok t) : AudioInv t := by
  have hc := (handler_effect hr).config
  cases c with
  | testUnitReady => exact h.congr (testUnitReady_audio hr) hc
  | read6 frame count => exact read6_audioInv h hr
  | setAudioStart mode addr => exact setAudioStart_audioInv htable h hr
  | setAudioEnd mode addr => exact setAudioEnd_audioInv h hr
  | pause => exact pause_audioInv h hr
  | getSubchannelQ => exact h.congr (getSubchannelQ_audio hr) hc
  | getDirInfo subFunction track => exact h.congr (getDirInfo_audio hr) hc

/-! ## The pump -/

/-- The invariant under a START_MODE table that arms the poll only with an end action, which a dispatched SET-AUDIO-START reads
(41_scsi_commands.md R187). -/
structure AudioSound (s : State) : Prop where
  table : StartModeTable.armsWithAction s.config.startMode
  inv   : AudioInv s

theorem AudioSound.of_inv {s t : State} (h : AudioSound s) (hr : runFields t = runFields s) (hi : AudioInv t) : AudioSound t :=
  ⟨config_of_runFields hr ▸ h.table, hi⟩

/-- A reset stops playback, and the other line passes leave the transport alone (40_bus_phases.md R141 to R143). -/
theorem linePasses_audioInv {s : State} (h : AudioInv s) : AudioInv (linePasses s) := by
  have hreset : AudioInv (resetEdge s) := by
    unfold resetEdge
    split
    · exact h
    · dsimp only
      split
      · exact { h with playing := nofun }
      · exact { h with }
  have hrelease : AudioInv (busRelease (resetEdge s)) := by
    unfold busRelease
    split
    · exact { hreset with }
    · exact hreset
  unfold linePasses select
  split
  · exact { hrelease with }
  · exact hrelease

theorem PhaseMove.audioInv {s t : State} {p : Phase} (hm : PhaseMove s p t) (h : AudioSound s) : AudioInv t := by
  cases hm with
  | commandRun _ _ _ _ hh => exact handler_audioInv (s := { s with bus.commandBuffer := [] }) h.table { h.inv with } hh
  | _ => exact { h.inv with }

theorem pass_audioSound {s t : State} (h : AudioSound s) (hp : pass s = .ok t) : AudioSound t := by
  have hl : AudioSound (linePasses s) := h.of_inv (linePasses_pumpEffect s).runFields (linePasses_audioInv h.inv)
  refine h.of_inv (pass_effect hp).runFields ?_
  rcases pass_cases hp with ⟨-, -, hm⟩ | ⟨-, rfl⟩
  · exact hm.audioInv hl
  · exact hl.inv

theorem AudioSound.pump {s t : State} (h : AudioSound s) (hp : pump s = .ok t) : AudioSound t :=
  pump_keeps (fun _ _ => pass_audioSound) h hp

theorem AudioSound.accessor {s t : State} (h : AudioSound s) (ha : accessor s = .ok t) : AudioSound t := by
  rcases accessor_cases ha with rfl | ⟨u, hu, ht⟩
  · exact h
  · have hs : AudioSound u := AudioSound.pump (s := { s with bus.ack := true }) ⟨h.table, { h.inv with }⟩ hu
    exact AudioSound.pump (s := { u with bus.ack := false }) ⟨hs.table, { hs.inv with }⟩ ht

/-! ## The moves of a step -/

/-- A sector tick at most disarms its own timer (41_scsi_commands.md R200). -/
theorem loadSector_audioInv {s : State} (h : AudioInv s) : AudioInv (loadSector s) := by
  have hask : AudioInv (askSector s) := by
    unfold askSector
    split <;> exact { h with }
  unfold loadSector
  dsimp only
  split
  · exact { hask with reading := nofun }
  · exact { hask with }

theorem PrePump.audioInv {s t : State} (hm : PrePump s t) (h : AudioSound s) : AudioInv t := by
  have hi := h.inv
  cases hm with
  | write7 v => unfold Machine.write7; dsimp only; split <;> exact { hi with }
  | @select v u hp =>
    have hu : AudioSound u := AudioSound.pump (s := { s.setReg 0x0 v with bus.sel := true }) ⟨h.table, { hi with }⟩ hp
    exact { hu.inv with }
  | engine hm => exact hi.congr hm.audio (config_of_runFields hm.runFields)
  | dmaMove _ ha => exact { (h.accessor ha).inv with }
  | fade hm => exact hi.congr hm.audio (config_of_runFields hm.runFields)
  | sector _ _ => exact loadSector_audioInv hi
  | poll ended hp =>
    rcases pollAnswered_cases hp with rfl | ⟨e, rfl⟩ | rfl | rfl
    · exact { hi with }
    · exact { hi with }
    · exact { hi with armed := nofun }
    · exact { hi with armed := nofun }
  | _ => exact { hi with }

theorem StepMove.audioInv {s t : State} (hm : StepMove s t) (h : AudioSound s) : AudioInv t := by
  cases hm with
  | dataRead ha =>
    have hr : AudioSound (recordRead 0x8 s.bus.dataReg s) := ⟨h.table, { h.inv with }⟩
    exact (hr.accessor ha).inv
  | portRead => unfold Machine.portRead; split <;> exact { h.inv with }
  | pumped hu hp => exact (AudioSound.pump (h.of_inv hu.runFields (hu.audioInv h)) hp).inv
  | _ => exact { h.inv with }

/-- Settles O55: every move keeps the invariant, the handlers by what START_MODE and the mode bits arm; a raising step leaves the
transport alone. -/
theorem stepKeepsAudioInv : Obligations.StepKeepsAudioInv := by
  refine ⟨fun s t htable hi h => ?_, fun s f hi h => ?_⟩
  · obtain ⟨u, hu, rfl⟩ := step_moves h
    exact { hu.audioInv ⟨htable, hi⟩ with }
  · rw [stateAfter_fault h]
    exact { hi with }

end Sys2Proof.Machine

/-! PROOFS. O16: the power-on state meets every invariant. -/

namespace Sys2Proof.Machine

theorem powerOn_busInv (config : Config) (program : List HostWord) (answers : List Frame) :
    BusInv (State.powerOn config program answers) where
  atRest := atRest_of_quiet rfl
  noSel := rfl
  noAtn := rfl
  rstSeen := rfl
  selectedBusy := rfl
  reqBusy := nofun
  noDataOut := nofun
  noMessageOut := nofun
  noReqAck := nofun
  ackDriven := by rw [getReg_powerOn]; rfl
  rstDriven := by rw [getReg_powerOn]; rfl
  commandBytes := Nat.zero_le _
  indexInside := Nat.zero_le _
  sizeWritten := Nat.zero_le _
  sizeBound := Nat.zero_le _
  bufferBound := Nat.zero_le _
  irqSources := BitVec.zero_and

theorem powerOn_adpcmInv (config : Config) (program : List HostWord) (answers : List Frame) :
    AdpcmInv (State.powerOn config program answers) where
  ramWf := memoryWf_powerOn config program answers
  readHoldoff := Nat.zero_le _
  writeHoldoff := Nat.zero_le _
  playAddress := Nat.zero_le _
  playInside := fun _ => Nat.zero_lt_succ _
  divider := by rw [getReg_powerOn]; rfl
  playBit := nofun

theorem FadeChannel.powerOn_fadeInv : FadeInv FadeChannel.powerOn :=
  ⟨le_refl _, rfl, nofun, nofun, nofun⟩

theorem powerOn_fadesInv (config : Config) (program : List HostWord) (answers : List Frame) :
    FadesInv (State.powerOn config program answers) :=
  ⟨FadeChannel.powerOn_fadeInv, FadeChannel.powerOn_fadeInv⟩

theorem powerOn_audioInv (config : Config) (program : List HostWord) (answers : List Frame) :
    AudioInv (State.powerOn config program answers) :=
  ⟨rfl, nofun, fun h => absurd rfl h, nofun⟩

/-- The default rows that arm the poll are those that repeat or raise IRQ_DONE (41_scsi_commands.md R187). -/
theorem standard_armsWithAction : StartModeTable.armsWithAction StartModeTable.standard :=
  ⟨nofun, nofun, nofun, nofun, nofun⟩

/-- Settles O16: reset is the power-on of the default parameters. -/
theorem powerOnMeetsInvariants : Obligations.PowerOnMeetsInvariants :=
  ⟨fun config program answers => ⟨powerOn_busInv config program answers, powerOn_adpcmInv config program answers,
      powerOn_fadesInv config program answers, powerOn_audioInv config program answers⟩,
    powerOn_busInv _ _ _, powerOn_adpcmInv _ _ _, powerOn_fadesInv _ _ _, powerOn_audioInv _ _ _, standard_armsWithAction⟩

end Sys2Proof.Machine

/-! PROOFS. O51: the lookup of a track in the table of contents, and the sector the image holds for a frame. -/

namespace Sys2Proof.Machine

/-! ## The track a frame lies in -/

theorem inTrack_iff {f : Frame} {t : Track} :
    inTrack f t = true ↔ t.start.toNat ≤ f.toNat ∧ f.toNat < t.start.toNat + t.frames.toNat := by
  rw [inTrack, Bool.and_eq_true, decide_eq_true_iff, decide_eq_true_iff, trackEndNat]

theorem trackFrom_cons_of_inTrack {f : Frame} {t : Track} (h : inTrack f t = true) (i : Nat) (ts : List Track) :
    trackFrom f i (t :: ts) = some (i, t) :=
  if_pos h

theorem trackFrom_cons_of_not_inTrack {f : Frame} {t : Track} (h : ¬ inTrack f t = true) (i : Nat) (ts : List Track) :
    trackFrom f i (t :: ts) = trackFrom f (i + 1) ts :=
  if_neg h

/-- A track that is found is one of the list, under its own index, and the frame lies in it. -/
theorem trackFrom_some {f : Frame} {ts : List Track} {i k : Nat} {t : Track} (h : trackFrom f i ts = some (k, t)) :
    ∃ j, k = i + j ∧ ts[j]? = some t ∧ inTrack f t = true := by
  induction ts generalizing i with
  | nil => cases h
  | cons u us ih =>
    by_cases hu : inTrack f u = true
    · rw [trackFrom_cons_of_inTrack hu] at h
      cases h
      exact ⟨0, rfl, rfl, hu⟩
    · rw [trackFrom_cons_of_not_inTrack hu] at h
      obtain ⟨j, rfl, hj, ht⟩ := ih h
      exact ⟨j + 1, by omega, hj, ht⟩

/-- No track is found only when the frame lies in none of them. -/
theorem trackFrom_none {f : Frame} {ts : List Track} {i : Nat} (h : trackFrom f i ts = none) :
    ∀ t ∈ ts, ¬ inTrack f t = true := by
  induction ts generalizing i with
  | nil => exact nofun
  | cons u us ih =>
    by_cases hu : inTrack f u = true
    · rw [trackFrom_cons_of_inTrack hu] at h
      cases h
    · rw [trackFrom_cons_of_not_inTrack hu] at h
      exact List.forall_mem_cons.mpr ⟨hu, ih h⟩

/-! ## Tracks in order and apart -/

/-- The first track ends no later than the second starts: what R74 asks of neighbours. -/
def endsBefore (t u : Track) : Prop := trackEndNat t ≤ u.start.toNat

theorem endsBefore_trans {t u v : Track} (htu : endsBefore t u) (huv : endsBefore u v) : endsBefore t v :=
  calc trackEndNat t ≤ u.start.toNat := htu
    _ ≤ trackEndNat u := Nat.le_add_right _ _
    _ ≤ v.start.toNat := huv

theorem tracksOrdered_isChain : ∀ {ts : List Track}, tracksOrdered ts = true → ts.IsChain endsBefore
  | [], _ => .nil
  | [t], _ => .singleton t
  | t :: u :: rest, h => by
    obtain ⟨htu, hrest⟩ := Bool.and_eq_true_iff.mp h
    have htu : trackEndNat t ≤ u.start.toNat := of_decide_eq_true htu
    exact .cons_cons htu (tracksOrdered_isChain hrest)

/-- R74 asks only that neighbours are apart: then every two tracks are. -/
theorem tracksOrdered_pairwise {ts : List Track} (h : tracksOrdered ts = true) : ts.Pairwise endsBefore :=
  have : IsTrans Track endsBefore := ⟨fun _ _ _ => endsBefore_trans⟩
  List.isChain_iff_pairwise.mp (tracksOrdered_isChain h)

/-- A frame of a later track is past the end of an earlier one. -/
theorem not_inTrack_of_endsBefore {f : Frame} {t u : Track} (htu : endsBefore t u) (hu : inTrack f u = true) :
    ¬ inTrack f t = true := by
  intro ht
  have hstart : u.start.toNat ≤ f.toNat := (inTrack_iff.mp hu).1
  have hend : f.toNat < trackEndNat t := (inTrack_iff.mp ht).2
  exact absurd (hend.trans_le htu) hstart.not_gt

/-- Among tracks that are apart, the track a frame lies in is the one found. -/
theorem trackFrom_of_pairwise {f : Frame} {ts : List Track} (hts : ts.Pairwise endsBefore) {j : Nat} {t : Track}
    (hj : ts[j]? = some t) (ht : inTrack f t = true) (i : Nat) : trackFrom f i ts = some (i + j, t) := by
  induction ts generalizing i j with
  | nil => cases hj
  | cons u us ih =>
    obtain ⟨hu, hus⟩ := List.pairwise_cons.mp hts
    cases j with
    | zero =>
      cases hj
      exact trackFrom_cons_of_inTrack ht i us
    | succ j =>
      rw [List.getElem?_cons_succ] at hj
      have hut : endsBefore u t := hu t (List.mem_of_getElem? hj)
      rw [trackFrom_cons_of_not_inTrack (not_inTrack_of_endsBefore hut ht), ih hus hj, Nat.add_right_comm, Nat.add_assoc]

theorem trackOf_some {d : Disc} {f : Frame} {k : Nat} {t : Track} (h : trackOf d f = some (k, t)) :
    d.tracks[k]? = some t ∧ inTrack f t = true := by
  obtain ⟨j, rfl, hj, ht⟩ := trackFrom_some h
  exact ⟨by rwa [Nat.zero_add], ht⟩

theorem Disc.wf_tracksOrdered {d : Disc} (h : Disc.wf d = true) : tracksOrdered d.tracks = true := by
  simp only [Disc.wf, Bool.and_eq_true] at h
  obtain ⟨⟨⟨-, hordered⟩, -⟩, -⟩ := h
  exact hordered

theorem Disc.wf_sector_length {d : Disc} (h : Disc.wf d = true) {x : Sector} (hx : x ∈ d.sectors) :
    x.bytes.length = Config.sectorBytes := by
  simp only [Disc.wf, Bool.and_eq_true, List.all_eq_true, decide_eq_true_eq] at h
  obtain ⟨-, hsectors⟩ := h
  exact hsectors x hx

/-- On a disc as R74 describes one, the track a frame lies in is the one found. -/
theorem trackOf_of_wf {d : Disc} (hd : Disc.wf d = true) {f : Frame} {k : Nat} {t : Track} (hk : d.tracks[k]? = some t)
    (ht : inTrack f t = true) : trackOf d f = some (k, t) := by
  rw [trackOf, trackFrom_of_pairwise (tracksOrdered_pairwise (Disc.wf_tracksOrdered hd)) hk ht, Nat.zero_add]

/-! ## The sector of a frame -/

/-- The sector of a frame is the first entry for that frame. -/
theorem sectorAt_eq_find? (f : Frame) : ∀ xs, sectorAt f xs = (xs.find? fun x => x.frame = f).map Sector.bytes
  | [] => rfl
  | x :: xs => by
    by_cases hx : x.frame = f <;> simp [sectorAt, hx, sectorAt_eq_find? f xs]

theorem mem_of_sectorAt {f : Frame} {xs : List Sector} {bytes : List Byte} (h : sectorAt f xs = some bytes) :
    { frame := f, bytes := bytes } ∈ xs := by
  rw [sectorAt_eq_find?] at h
  obtain ⟨x, hfind, rfl⟩ := Option.map_eq_some_iff.mp h
  obtain rfl : x.frame = f := by simpa using List.find?_some hfind
  exact List.mem_of_find?_eq_some hfind

theorem sectorAt_eq_none_iff {f : Frame} {xs : List Sector} : sectorAt f xs = none ↔ ∀ x ∈ xs, x.frame ≠ f := by
  simp [sectorAt_eq_find?]

/-- Where every entry for a frame has the same bytes, these are the bytes of its sector. -/
theorem sectorAt_of_unique {f : Frame} {xs : List Sector} {bytes : List Byte} (hmem : { frame := f, bytes := bytes } ∈ xs)
    (huniq : ∀ x ∈ xs, x.frame = f → x.bytes = bytes) : sectorAt f xs = some bytes := by
  cases h : sectorAt f xs with
  | none => exact absurd rfl (sectorAt_eq_none_iff.mp h _ hmem)
  | some found => rw [← huniq _ (mem_of_sectorAt h) rfl]

/-- A read succeeds in a data track whose image lists 2048 bytes for the frame, and only there (log 14). -/
theorem readSector_eq_some_iff {d : Disc} {f : Frame} {bytes : List Byte} :
    readSector (some d) f = some bytes ↔
      sectorAt f d.sectors = some bytes ∧ bytes.length = Config.sectorBytes ∧
        ∃ k t, trackOf d f = some (k, t) ∧ t.kind = .data := by
  constructor
  · intro h
    have hlength := readSector_length h
    dsimp only [readSector] at h
    split at h
    next k t htrack =>
      split at h
      next found hkind hsector =>
        split at h <;> cases h
        exact ⟨hsector, hlength, k, t, htrack, hkind⟩
      next => cases h
    next => cases h
  · rintro ⟨hsector, hlength, k, t, htrack, hkind⟩
    simp [readSector, htrack, hkind, hsector, hlength]

/-- On a disc as R74 describes one, a read in a data track returns what the image lists for the frame. -/
theorem readSector_of_wf {d : Disc} (hd : Disc.wf d = true) {f : Frame} {k : Nat} {t : Track} {bytes : List Byte}
    (htrack : trackOf d f = some (k, t)) (hkind : t.kind = .data) (hsector : sectorAt f d.sectors = some bytes) :
    readSector (some d) f = some bytes :=
  readSector_eq_some_iff.mpr ⟨hsector, Disc.wf_sector_length hd (mem_of_sectorAt hsector), k, t, htrack, hkind⟩

/-- A read of a frame the image lists nothing for fails. -/
theorem readSector_of_not_listed {d : Disc} {f : Frame} (h : ∀ x ∈ d.sectors, x.frame ≠ f) : readSector (some d) f = none := by
  refine Option.eq_none_iff_forall_ne_some.mpr fun bytes hread => ?_
  obtain ⟨hsector, -⟩ := readSector_eq_some_iff.mp hread
  exact h _ (mem_of_sectorAt hsector) rfl

/-- Settles O51: tracks that are apart make the lookup's first hit the only one, and a read is the first entry for the frame. -/
theorem trackLookup : Obligations.TrackLookup := by
  refine ⟨fun d f k t h => ?_, fun d f k t hd hk hstart hend => ?_, fun d f h t ht => ?_, fun d f bytes h => ?_,
    fun d f k t bytes hd htrack hkind => ⟨?_, ?_, ?_⟩, fun _ => rfl⟩
  · obtain ⟨hk, ht⟩ := trackOf_some h
    exact ⟨hk, inTrack_iff.mp ht⟩
  · exact trackOf_of_wf hd hk (inTrack_iff.mpr ⟨hstart, hend⟩)
  · have hout := trackFrom_none h t ht
    rw [inTrack_iff] at hout
    omega
  · obtain ⟨hsector, hlength, hdata⟩ := readSector_eq_some_iff.mp h
    exact ⟨hlength, mem_of_sectorAt hsector, hdata⟩
  · exact readSector_of_wf hd htrack hkind
  · exact fun hmem huniq => readSector_of_wf hd htrack hkind (sectorAt_of_unique hmem huniq)
  · exact readSector_of_not_listed

end Sys2Proof.Machine

/-! PROOFS. O1, O2, O3, O5: the decoders and the encoder of 30_encoding.md agree. -/

namespace Sys2Proof

/-- The decoders match on the number a field holds; this gives the field back as a literal. -/
theorem eq_ofNat_of_toNat_eq {w n : Nat} {x : BitVec w} (h : x.toNat = n) : x = BitVec.ofNat w n := by
  rw [← h, BitVec.ofNat_toNat, BitVec.setWidth_eq]

/-! ## The fade programs (43_fade.md R272; log 17) -/

theorem isFadeProgram_iff (p : BitVec 4) : isFadeProgram p = true ↔ p.toNat ∈ [0x0, 0x1, 0x8, 0x9, 0xA, 0xC, 0xD, 0xE] := by
  revert p
  decide

/-- A WR 0xF byte outside the table is a row of its own. -/
theorem fadeRow_of_not_program {data : Byte} (h : isFadeProgram (data.extractLsb' 0 4) = false) : fadeRow data = .wr0xF data := by
  have hnot : (data.extractLsb' 0 4).toNat ∉ [0x0, 0x1, 0x8, 0x9, 0xA, 0xC, 0xD, 0xE] := by
    rw [← isFadeProgram_iff, h]
    nofun
  unfold fadeRow
  dsimp only
  split
  case h_9 => rfl
  all_goals next hp => exact absurd (by rw [hp]; decide) hnot

/-- The byte whose low nibble has the value n is the fade byte of program n. -/
theorem fadeByte_of_low {data : Byte} {n : Nat} (h : (data.extractLsb' 0 4).toNat = n) :
    fadeByte (data.extractLsb' 4 4) (BitVec.ofNat 4 n) = data := by
  rw [← eq_ofNat_of_toNat_eq h, fadeByte_nibbles]

theorem fadeRow_wf (data : Byte) : (fadeRow data).wf = true := by
  unfold fadeRow
  dsimp only
  split
  case h_9 =>
    have hnot : isFadeProgram (data.extractLsb' 0 4) ≠ true := by
      rw [ne_eq, isFadeProgram_iff]
      simp_all
    simpa [Instr.wf] using hnot
  all_goals rfl

theorem encode_fadeRow (data : Byte) : encode (fadeRow data) = writeWord 0xF data := by
  unfold fadeRow
  dsimp only
  split
  case h_9 => rfl
  all_goals next hp => exact congrArg (writeWord 0xF) (fadeByte_of_low hp)

/-! ## The rows of the host operations (R100 to R102) -/

theorem readRow_ne_reserved (sel : BitVec 4) (low : BitVec 12) : readRow sel ≠ .reserved low := by
  unfold readRow
  split <;> nofun

theorem fadeRow_ne_reserved (data : Byte) (low : BitVec 12) : fadeRow data ≠ .reserved low := by
  unfold fadeRow
  dsimp only
  split <;> nofun

theorem writeRow_ne_reserved (sel : BitVec 4) (data : Byte) (low : BitVec 12) : writeRow sel data ≠ .reserved low := by
  unfold writeRow
  split
  case h_16 => exact fadeRow_ne_reserved data low
  all_goals nofun

theorem readRow_wf (sel : BitVec 4) : (readRow sel).wf = true := by
  revert sel
  decide

theorem encode_readRow (sel : BitVec 4) : encode (readRow sel) = readWord sel := by
  revert sel
  decide

theorem writeRow_wf (sel : BitVec 4) (data : Byte) : (writeRow sel data).wf = true := by
  unfold writeRow
  split
  case h_16 => exact fadeRow_wf data
  all_goals rfl

/-- The last register is the one left over by the rows of the other fifteen. -/
theorem encode_writeRow (sel : BitVec 4) (data : Byte) : encode (writeRow sel data) = writeWord sel data := by
  unfold writeRow
  split
  case h_16 =>
    simp only [imp_false] at *
    have hlast : sel.toNat = 15 := by omega
    rw [encode_fadeRow, eq_ofNat_of_toNat_eq hlast]
    rfl
  all_goals next hn => rw [eq_ofNat_of_toNat_eq hn]; rfl

theorem plainEvent_eq_ok_iff {data : Byte} {i j : Instr} : plainEvent data i = .ok j ↔ data = 0 ∧ j = i := by
  constructor
  · intro h
    unfold plainEvent at h
    split at h <;> cases h
    exact ⟨‹_›, rfl⟩
  · rintro ⟨rfl, rfl⟩
    rfl

theorem pollRow_eq_ok_iff {data : Byte} {i : Instr} :
    pollRow data = .ok i ↔ ∃ answer : Bool, i = .evPollAudio answer ∧ data = if answer then 1 else 0 := by
  constructor
  · intro h
    unfold pollRow at h
    split at h <;> cases h
    next hd => exact ⟨false, rfl, eq_ofNat_of_toNat_eq hd⟩
    next hd => exact ⟨true, rfl, eq_ofNat_of_toNat_eq hd⟩
  · rintro ⟨_ | _, rfl, rfl⟩ <;> rfl

/-- An event that decodes is well formed, and its word holds the selector and the data it was decoded from. -/
theorem encode_eventRow {sel : BitVec 4} {data : Byte} {i : Instr} (h : eventRow sel data = .ok i) :
    i.wf = true ∧ encode i = eventWord sel data := by
  unfold eventRow at h
  split at h
  case h_8 hn =>
    obtain ⟨answer, rfl, rfl⟩ := pollRow_eq_ok_iff.mp h
    exact ⟨rfl, by rw [eq_ofNat_of_toNat_eq hn]; rfl⟩
  case h_9 => cases h
  all_goals
    next hn =>
      obtain ⟨rfl, rfl⟩ := plainEvent_eq_ok_iff.mp h
      exact ⟨rfl, by rw [eq_ofNat_of_toNat_eq hn]; rfl⟩

/-! ## A word by its kind (R100, R101) -/

theorem kind_cases (k : BitVec 2) : k = 0 ∨ k = 1 ∨ k = 2 ∨ k = 3 := by
  revert k
  decide

theorem decodeHostOp_of_read {w : HostWord} (h : opKind w = 0) :
    decodeHostOp w = if opData w = 0 then .ok (readRow (opSel w)) else .error .readWithData := by
  simp [decodeHostOp, h]

theorem decodeHostOp_of_write {w : HostWord} (h : opKind w = 1) : decodeHostOp w = .ok (writeRow (opSel w) (opData w)) := by
  simp [decodeHostOp, h]

theorem decodeHostOp_of_event {w : HostWord} (h : opKind w = 2) : decodeHostOp w = eventRow (opSel w) (opData w) := by
  simp [decodeHostOp, h]

theorem decodeHostOp_of_reserved {w : HostWord} (h : opKind w = 3) :
    decodeHostOp w = .ok (.reserved (w.extractLsb' 0 12)) := by
  simp [decodeHostOp, h]

/-- A word is its kind and its other twelve bits. -/
theorem kind_append_low (w : HostWord) : opKind w ++ w.extractLsb' 0 12 = w := by
  apply BitVec.eq_of_getLsbD_eq
  intro i hi
  simp only [opKind, BitVec.getLsbD_extractLsb', BitVec.getLsbD_append]
  split
  · simp [*]
  · have hk : i - 12 < 2 := by omega
    simp only [hk, decide_true, Bool.true_and]
    congr 1
    omega

/-- A word of a given kind, from its fields. -/
theorem hostWord_of_kind {w : HostWord} {k : BitVec 2} (h : opKind w = k) : hostWord k (opSel w) (opData w) = w := by
  rw [← h, hostWord_fields]

/-- Settles O2, by the kind of the word: each kind's row keeps the selector and the data byte. -/
theorem hostWordDecodeThenEncode : Obligations.HostWordDecodeThenEncode := by
  intro w i h
  rcases kind_cases (opKind w) with hk | hk | hk | hk
  · rw [decodeHostOp_of_read hk] at h
    split at h <;> cases h
    next hd =>
      refine ⟨readRow_wf _, ?_⟩
      rw [encode_readRow, readWord, ← hd, hostWord_of_kind hk]
  · rw [decodeHostOp_of_write hk] at h
    cases h
    refine ⟨writeRow_wf _ _, ?_⟩
    rw [encode_writeRow, writeWord, hostWord_of_kind hk]
  · rw [decodeHostOp_of_event hk] at h
    obtain ⟨hwf, henc⟩ := encode_eventRow h
    refine ⟨hwf, ?_⟩
    rw [henc, eventWord, hostWord_of_kind hk]
  · rw [decodeHostOp_of_reserved hk] at h
    cases h
    refine ⟨rfl, ?_⟩
    rw [encode, ← hk, kind_append_low]

/-! ## O1: host operations -/

theorem decode_readWord (sel : BitVec 4) : decode (readWord sel) = .ok (readRow sel) := decodeHostOp_read sel

theorem decode_writeWord (sel : BitVec 4) (data : Byte) : decode (writeWord sel data) = .ok (writeRow sel data) :=
  decodeHostOp_write sel data

theorem decode_lastWriteWord (data : Byte) : decode (writeWord 0xF data) = .ok (fadeRow data) := decode_writeWord 0xF data

theorem decode_eventWord (sel : BitVec 4) (data : Byte) : decode (eventWord sel data) = eventRow sel data :=
  decodeHostOp_event sel data

theorem decode_reservedWord (low : BitVec 12) : decode (.hostOp ((3 : BitVec 2) ++ low)) = .ok (.reserved low) := by
  rw [decode, decodeHostOp_of_reserved (opKind_reserved low), reserved_low]

/-- Where every byte of program p has the same row, the fade word of p decodes to it, the high nibble kept. -/
theorem decode_fadeWord {p : BitVec 4} {row : BitVec 4 → Instr}
    (hrow : ∀ data : Byte, data.extractLsb' 0 4 = p → fadeRow data = row (data.extractLsb' 4 4)) (high : BitVec 4) :
    decode (writeWord 0xF (fadeByte high p)) = .ok (row high) := by
  rw [decode_lastWriteWord, hrow _ (fadeByte_low high p), fadeByte_high]

/-! ## O1 and O3: commands (R106 to R108) -/

/-- A block of its opcode's length is read by that opcode's layout. -/
theorem decodeCommand_of_length {op : Byte} {rest : List Byte} (h : commandLength op = some (rest.length + 1)) :
    decodeCommand (op :: rest) = commandOf op (op :: rest) := by
  simp [decodeCommand, h]

/-- The command an audio opcode and its operands are. -/
def AudioCommand.command : AudioCommand → BitVec 2 → AudioAddr → Command
  | .start => .setAudioStart
  | .finish => .setAudioEnd

theorem commandOf_opcode (cmd : AudioCommand) (c : List Byte) :
    commandOf cmd.opcode c = .ok (cmd.command (cdbMode c) (cdbAudioAddr c)) := by
  cases cmd <;> rfl

theorem decodeCommand_audioBytes (cmd : AudioCommand) (mode : BitVec 2) (addr : AudioAddr) :
    decodeCommand (audioBytes cmd.opcode mode addr) = .ok (cmd.command mode addr) := by
  have hread : decodeCommand (audioBytes cmd.opcode mode addr) = commandOf cmd.opcode (audioBytes cmd.opcode mode addr) := by
    cases cmd <;> cases addr <;> exact decodeCommand_of_length rfl
  rw [hread, commandOf_opcode, cdbMode_audioBytes, cdbAudioAddr_audioBytes]

theorem decodeCommand_encodeCommand (c : Command) : decodeCommand (encodeCommand c) = .ok c := by
  cases c with
  | testUnitReady | pause | getSubchannelQ | getDirInfo => exact decodeCommand_of_length rfl
  | read6 frame count =>
    have hframe : cdbFrame (encodeCommand (.read6 frame count)) = frame := read6_frame_fields frame
    calc decodeCommand (encodeCommand (.read6 frame count))
        = .ok (.read6 (cdbFrame (encodeCommand (.read6 frame count))) count) := decodeCommand_of_length rfl
      _ = .ok (.read6 frame count) := by rw [hframe]
  | setAudioStart mode addr => exact decodeCommand_audioBytes .start mode addr
  | setAudioEnd mode addr => exact decodeCommand_audioBytes .finish mode addr

theorem decode_cdb (c : Command) : decode (.cdb (encodeCommand c)) = .ok c.toInstr := by
  rw [decode, decodeCommand_encodeCommand]
  rfl

theorem decode_cdbSub (subFunction track : Byte) :
    decode (.cdbSub (encodeCommand (.getDirInfo subFunction track))) = dirInfoRow subFunction track := by
  rw [decode, decodeSubFunction, decodeCommand_encodeCommand]

theorem decode_cdbAddr (cmd : AudioCommand) (mode : BitVec 2) (addr : AudioAddr) :
    decode (.cdbAddr (audioBytes cmd.opcode mode addr)) = .ok (audioAddrRow cmd mode addr) := by
  rw [decode, decodeAddrType, decodeCommand_audioBytes]
  cases cmd <;> rfl

/-- Settles O1, by the format of the instruction's row. -/
theorem encodeThenDecode : Obligations.EncodeThenDecode := by
  intro i hwf
  cases i with
  | rd0x0 | rd0x1 | rd0x2 | rd0x3 | rd0x4 | rd0x5 | rd0x6 | rd0x7
  | rd0x8 | rd0x9 | rd0xA | rd0xB | rd0xC | rd0xD | rd0xE | rd0xF => exact decode_readWord _
  | wr0x0 | wr0x1 | wr0x2 | wr0x3 | wr0x4 | wr0x5 | wr0x6 | wr0x7
  | wr0x8 | wr0x9 | wr0xA | wr0xB | wr0xC | wr0xD | wr0xE => exact decode_writeWord _ _
  | wr0xF data =>
    have hprogram : isFadeProgram (data.extractLsb' 0 4) = false := by simpa [Instr.wf] using hwf
    rw [encode, decode_lastWriteWord, fadeRow_of_not_program hprogram]
  | evTickSector | evTickDma | evTickNibble | evFadeCdIn | evFadeCdOut | evFadeAdIn | evFadeAdOut => exact decode_eventWord _ 0
  | evPollAudio answer => cases answer <;> exact decode_eventWord 7 _
  | reserved low => exact decode_reservedWord low
  | testUnitReady | read6 | setAudioStart | setAudioEnd | pause | getSubchannelQ | getDirInfo => exact decode_cdb _
  | dirInfoTracks | dirInfoDiscSize | dirInfoTrackStart => exact decode_cdbSub _ _
  | fade0x0 high | fade0x1 high | fade0x8 high | fade0x9 high | fade0xA high | fade0xC high | fade0xD high | fade0xE high =>
    exact decode_fadeWord (fun data hp => by simp [fadeRow, hp]) high
  | audioAddrLba cmd mode | audioAddrMsf cmd mode | audioAddrTrack cmd mode | audioAddrReserved cmd mode =>
    exact decode_cdbAddr cmd mode _

/-! ## O3, O5: layouts and words written out -/

theorem cdbAudioAddr_of_type0 {c : List Byte} (h : (cdbByte c 9).extractLsb' 6 2 = 0) : cdbAudioAddr c = .lba (cdbLba c) := by
  simp [cdbAudioAddr, h]

theorem cdbAudioAddr_of_type1 {c : List Byte} (h : (cdbByte c 9).extractLsb' 6 2 = 1) :
    cdbAudioAddr c = .msf (cdbByte c 2) (cdbByte c 3) (cdbByte c 4) := by
  simp [cdbAudioAddr, h]

theorem cdbAudioAddr_of_type2 {c : List Byte} (h : (cdbByte c 9).extractLsb' 6 2 = 2) :
    cdbAudioAddr c = .track (cdbByte c 2) := by
  simp [cdbAudioAddr, h]

theorem cdbAudioAddr_of_type3 {c : List Byte} (h : (cdbByte c 9).extractLsb' 6 2 = 3) : cdbAudioAddr c = .reserved := by
  simp [cdbAudioAddr, h]

/-- Settles O3: each block has its opcode's length, and the two audio commands read their address from the same bytes. -/
theorem commandBlockLayouts : Obligations.CommandBlockLayouts := by
  intro c1 c2 c3 c4 c5 c6 c7 c8 c9
  refine ⟨decodeCommand_of_length rfl, decodeCommand_of_length rfl, decodeCommand_of_length rfl, decodeCommand_of_length rfl,
    cdbAudioAddr [0xD8, c1, c2, c3, c4, c5, c6, c7, c8, c9], decodeCommand_of_length rfl, decodeCommand_of_length rfl,
    fun h => cdbAudioAddr_of_type0 h, fun h => cdbAudioAddr_of_type1 h, fun h => cdbAudioAddr_of_type2 h,
    fun h => cdbAudioAddr_of_type3 h⟩

/-- Settles O5: the host words are those of their fields, and the blocks have their opcode's length. -/
theorem specWordsDecode : Obligations.SpecWordsDecode :=
  ⟨decodeHostOp_read 0x3, decodeHostOp_write 0xD 0x58, decodeHostOp_write 0xF 0x09, decodeHostOp_event 2 0,
    decodeHostOp_event 7 1, rfl, rfl, decode_cdbSub 2 0xAA⟩

end Sys2Proof

/-! PROOFS. O4: the illegal host-operation words. -/

namespace Sys2Proof

/-- The decoder answers an instruction other than the reserved row, which alone of the rows is an illegal word (R101). -/
def Legal (r : Except DecodeError Instr) : Prop := ∃ i, r = .ok i ∧ ∀ low, i ≠ .reserved low

theorem legal_ok {i : Instr} (h : ∀ low, i ≠ .reserved low) : Legal (.ok i) := ⟨i, rfl, h⟩

theorem not_legal_error (e : DecodeError) : ¬ Legal (.error e) := by
  rintro ⟨i, hi, -⟩
  cases hi

theorem not_legal_reserved (low : BitVec 12) : ¬ Legal (.ok (.reserved low)) := by
  rintro ⟨i, hi, hne⟩
  cases hi
  exact hne low rfl

theorem legal_plainEvent_iff {data : Byte} {i : Instr} (hi : ∀ low, i ≠ .reserved low) :
    Legal (plainEvent data i) ↔ data = 0 := by
  unfold plainEvent
  split
  next hd => exact iff_of_true (legal_ok hi) hd
  next hd => exact iff_of_false (not_legal_error _) hd

theorem legal_pollRow_iff {data : Byte} : Legal (pollRow data) ↔ data ≤ 1 := by
  constructor
  · rintro ⟨i, hi, -⟩
    obtain ⟨answer, -, rfl⟩ := pollRow_eq_ok_iff.mp hi
    cases answer <;> decide
  · intro hd
    have hanswer : data = 0 ∨ data = 1 := by bv_omega
    rcases hanswer with rfl | rfl <;> exact legal_ok nofun

/-- The events of R102 are 0 to 7, and only POLL_AUDIO takes data, a boolean. -/
theorem legal_eventRow_iff {sel : BitVec 4} {data : Byte} :
    Legal (eventRow sel data) ↔ sel < 8 ∧ (sel ≠ 7 → data = 0) ∧ (sel = 7 → data ≤ 1) := by
  unfold eventRow
  split
  case h_8 hn =>
    rw [eq_ofNat_of_toNat_eq hn, legal_pollRow_iff]
    simp
  case h_9 =>
    simp only [imp_false] at *
    refine iff_of_false (not_legal_error _) fun h => ?_
    have hlt : sel.toNat < 8 := h.1
    omega
  all_goals
    next hn =>
      rw [eq_ofNat_of_toNat_eq hn, legal_plainEvent_iff]
      · simp
      · nofun

theorem legal_decodeHostOp_of_read {w : HostWord} (h : opKind w = 0) : Legal (decodeHostOp w) ↔ opData w = 0 := by
  rw [decodeHostOp_of_read h]
  split
  next hd => exact iff_of_true (legal_ok (readRow_ne_reserved _)) hd
  next hd => exact iff_of_false (not_legal_error _) hd

/-- The words of R101's five illegal forms. -/
def IllegalWord (w : HostWord) : Prop :=
  opKind w = 3#2 ∨ (opKind w = 0#2 ∧ opData w ≠ 0#8) ∨ (opKind w = 2#2 ∧ 8#4 ≤ opSel w) ∨
    (opKind w = 2#2 ∧ opSel w ≠ 7#4 ∧ opData w ≠ 0#8) ∨ (opKind w = 2#2 ∧ opSel w = 7#4 ∧ 1#8 < opData w)

theorem legal_decodeHostOp_iff (w : HostWord) : Legal (decodeHostOp w) ↔ ¬ IllegalWord w := by
  unfold IllegalWord
  rcases kind_cases (opKind w) with hk | hk | hk | hk
  · rw [legal_decodeHostOp_of_read hk, hk]
    simp
  · rw [decodeHostOp_of_write hk, hk]
    simpa using legal_ok (writeRow_ne_reserved _ _)
  · rw [decodeHostOp_of_event hk, legal_eventRow_iff, hk]
    simp
  · rw [decodeHostOp_of_reserved hk, hk]
    simpa using not_legal_reserved _

end Sys2Proof

namespace Sys2Proof.Machine

/-- Performing a word that is no instruction, or the reserved row's, is the fault of R101. -/
theorem step_of_not_legal {s : State} {w : HostWord} (hf : s.fault = none) (hw : s.program[s.hpc]? = some w)
    (h : ¬ Legal (decodeHostOp w)) : step s = .fault .illegalHostOp := by
  cases hd : decodeHostOp w with
  | error e =>
    have hfetch : fetchWord s = some w := hw
    simp only [step, hf, hfetch, hd]
    rfl
  | ok i =>
    have hreserved : ∃ low, i = .reserved low := by
      by_contra hne
      exact h ⟨i, hd, fun low hi => hne ⟨low, hi⟩⟩
    obtain ⟨low, rfl⟩ := hreserved
    rw [step_of_decoded hf hw hd]
    rfl

/-- Settles O4: a word is of an illegal form exactly when the decoder finds no instruction, or the reserved row, in it. -/
theorem illegalHostWords : Obligations.IllegalHostWords := by
  refine ⟨fun s w hf hw => ⟨fun (h : IllegalWord w) => ?_, fun (h : ¬ IllegalWord w) => (legal_decodeHostOp_iff w).mpr h⟩,
    fun low s => rfl⟩
  have hstep : step s = .fault .illegalHostOp :=
    step_of_not_legal hf hw fun hlegal => (legal_decodeHostOp_iff w).mp hlegal h
  exact ⟨hstep, stateAfter_fault hstep⟩

end Sys2Proof.Machine

/-! PROOFS. O6 to O8: BCD, and the audio addresses (30_encoding.md R109 to R112). -/

namespace Sys2Proof.Machine

theorem bcdDec_eq (b : Byte) : bcdDec b = b.toNat / 16 * 10 + b.toNat % 16 := by
  have hb := b.isLt
  simp only [bcdDec, BitVec.extractLsb'_toNat, Nat.shiftRight_eq_div_pow]
  omega

theorem bcdEnc_toNat (n : Nat) : (bcdEnc n).toNat = (n / 10 % 16 * 16 + n % 10) % 256 := BitVec.toNat_ofNat _ _

/-- Two decimal digits fit in the two nibbles. -/
theorem bcdDec_bcdEnc {n : Nat} (h : n ≤ 99) : bcdDec (bcdEnc n) = n := by
  rw [bcdDec_eq, bcdEnc_toNat]
  omega

/-- Settles O7. -/
theorem bcdAndMsf : Obligations.BcdAndMsf :=
  ⟨fun _ => rfl, bcdEnc_toNat, fun _ => bcdDec_bcdEnc, rfl, rfl, fun _ => rfl, rfl⟩

/-- A nibble is at most 15, whether or not it is a digit. -/
theorem bcdDec_le (b : Byte) : bcdDec b ≤ 165 := by
  have hb := b.isLt
  rw [bcdDec_eq]
  omega

theorem toFrame_of_lt {n : Nat} (h : n < 2 ^ 32) : toFrame n = BitVec.ofNat 32 n := if_pos h

theorem leadInCorrected_eq (leadIn f : Nat) : leadInCorrected leadIn f = if f < leadIn then f else f - leadIn := by
  simp only [leadInCorrected, ← Nat.not_lt, ite_not]

theorem leadInCorrected_le (leadIn f : Nat) : leadInCorrected leadIn f ≤ f := by
  unfold leadInCorrected
  split <;> omega

theorem msfFrames_lt (m s f : Byte) : msfFrames m s f < 2 ^ 32 := by
  have hm := bcdDec_le m
  have hs := bcdDec_le s
  have hf := bcdDec_le f
  unfold msfFrames
  omega

/-- An MSF address always fits a frame number. -/
theorem audioAddr_msf (config : Config) (m s f : Byte) :
    audioAddr config (.msf m s f) = .ok (BitVec.ofNat 32 (leadInCorrected config.leadIn (msfFrames m s f))) := by
  rw [audioAddr, toFrame_of_lt ((leadInCorrected_le _ _).trans_lt (msfFrames_lt m s f))]

/-- The time of a frame below 100 minutes names that frame. -/
theorem msfFrames_bcdEnc {f : Nat} (h : f ≤ 449999) :
    msfFrames (bcdEnc (f / 4500)) (bcdEnc (f / 75 % 60)) (bcdEnc (f % 75)) = f := by
  rw [msfFrames, bcdDec_bcdEnc (by omega), bcdDec_bcdEnc (by omega), bcdDec_bcdEnc (by omega)]
  omega

/-- Settles O6: the time names the frame itself, so what is left is the lead-in correction. -/
theorem msfRoundTrip : Obligations.MsfRoundTrip := by
  intro config f hlead hf
  rw [audioAddr_msf, msfFrames_bcdEnc hf, hlead, leadInCorrected_eq]

theorem trackNumbered_of_out_of_range {d : Disc} {t : Nat} (h : t = 0 ∨ d.tracks.length < t) :
    trackNumbered d t = .error .trackOutOfRange := by
  cases t with
  | zero => rfl
  | succ n =>
    have hnone : d.tracks[n]? = none := List.getElem?_eq_none (by omega)
    simp only [trackNumbered, hnone]

theorem trackNumbered_of_listed {d : Disc} {k : Nat} {t : Track} (hk : 1 ≤ k) (h : d.tracks[k - 1]? = some t) :
    trackNumbered d k = .ok t := by
  cases k with
  | zero => omega
  | succ n =>
    have hsome : d.tracks[n]? = some t := h
    simp only [trackNumbered, hsome]

theorem audioAddr_track_of_noDisc {config : Config} (h : config.disc = none) (n : Byte) :
    audioAddr config (.track n) = .error .noDisc := by
  simp only [audioAddr, h]

theorem audioAddr_track_of_disc {config : Config} {d : Disc} (h : config.disc = some d) (n : Byte) :
    audioAddr config (.track n) = (trackNumbered d (bcdDec n)).map Track.start := by
  simp only [audioAddr, h]

/-- Settles O8: an MSF time always fits, and a track number goes to the table of contents. -/
theorem audioAddressForms : Obligations.AudioAddressForms := by
  refine fun config => ⟨fun frame => rfl, audioAddr_msf config, fun n hdisc => audioAddr_track_of_noDisc hdisc n,
    fun d n hdisc => ⟨fun hout => ?_, fun t hn ht => ?_⟩, rfl⟩
  · rw [audioAddr_track_of_disc hdisc, trackNumbered_of_out_of_range hout]
    rfl
  · rw [audioAddr_track_of_disc hdisc, trackNumbered_of_listed hn ht]
    rfl

end Sys2Proof.Machine

/-! PROOFS. O56: the pump reaches its fixed point, and raises neither DataOut nor PumpDiverged. -/

namespace Sys2Proof.Machine

/-! ## What a pass leaves for the next one (40_bus_phases.md R157) -/

/-- One of REQ and ACK alone keeps every phase quiet: a handshake step asks for both, every other branch for neither. -/
theorem quietPhase_of_req_ne_ack {b : Bus} (h : b.req ≠ b.ack) (p : Phase) : quietPhase b p = true := by
  have hboth : (b.req && b.ack) = false := by revert h; cases b.req <;> cases b.ack <;> simp
  have hone : (b.req || b.ack) = true := by revert h; cases b.req <;> cases b.ack <;> simp
  cases p <;> simp only [quietPhase, hboth, hone, Bool.not_false, Bool.true_or, Bool.and_self]

theorem quietPhase_of_phaseOf {b : Bus} {p : Phase} (hp : phaseOf b = p) (h : quietPhase b p = true) :
    quietPhase b (phaseOf b) = true := hp ▸ h

/-- DataIn with no handshake under way and a byte left: the one step a phase step can leave to the next pass. -/
structure DataPending (b : Bus) : Prop where
  dataIn   : phaseOf b = .dataIn
  noReq    : b.req = false
  noAck    : b.ack = false
  byteLeft : b.dataIndex ≠ b.dataSize

/-- Every branch of a phase step disables the branches of the phase it leads to; only a data reply leaves its first byte to place. -/
theorem PhaseMove.quiet_or_pending {s t : State} {p : Phase} (h : PhaseMove s p t) (hp : phaseOf s.bus = p)
    (hb : s.bus.bsy = true) : quietPhase t.bus (phaseOf t.bus) = true ∨ DataPending t.bus := by
  cases h with
  | stay hq => exact .inl (quietPhase_of_phaseOf hp hq)
  | commandRun hr ha _ _ hh =>
    rcases (handler_effect hh).bus with ht | ⟨c, ht⟩ | ⟨bytes, h2, -, ht⟩ <;> rw [ht]
    · exact .inl (quietPhase_of_phaseOf hp (by simp [quietPhase, hr]))
    · exact .inl (quietPhase_of_req_ne_ack (by simp [ha]) _)
    · refine .inr ⟨by simp [phaseOf, hb], hr, ha, ?_⟩
      rw [replyData_bus_dataIndex, replyData_bus_dataSize]
      omega
  | statusOnly hr _ _ _ => exact .inl (quietPhase_of_phaseOf hp (by simp [quietPhase, hr]))
  | messageDone _ _ _ => exact .inl rfl
  | dataWaits hr _ hi ht _ =>
    exact .inl (quietPhase_of_phaseOf hp (by simp [quietPhase, hr, hi, ht, BitVec.and_assoc]))
  | commandByte _ ha _ | statusTaken _ ha | messageTaken _ ha | dataTaken _ ha | commandMore _ ha _ | statusMessage _ ha _ _
  | dataPlaced _ ha _ | dataDone _ ha _ _ => exact .inl (quietPhase_of_req_ne_ack (by simp [ha]) _)

/-- What a pass leaves to the next one: no RST edge and no selection; a release at most, or the first byte of a data reply. -/
structure AfterPass (b : Bus) : Prop where
  rstSeen  : b.rst = b.lastRst
  selected : (b.sel && !b.selected) = false
  phase    : (b.bsy && !b.atn) = true → quietPhase b (phaseOf b) = true ∨ DataPending b

/-- The selection latch after the line passes is set wherever SEL is high (40_bus_phases.md R143). -/
theorem linePasses_selected (s : State) : ((linePasses s).bus.sel && !(linePasses s).bus.selected) = false := by
  have hsel : (linePasses s).bus.sel = (resetEdge s).bus.sel := by
    unfold linePasses select busRelease
    split <;> split <;> rfl
  rw [hsel, linePasses, release_select_selected]
  cases (resetEdge s).bus.sel <;> rfl

theorem PhaseMove.sel_eq {s t : State} {p : Phase} (h : PhaseMove s p t) : t.bus.sel = s.bus.sel := by
  cases h with
  | commandRun _ _ _ _ hh =>
    obtain ⟨-, -, hsel, -⟩ := (handler_effect hh).lines
    exact hsel
  | _ => rfl

theorem pass_afterPass {s t : State} (h : pass s = .ok t) : AfterPass t.bus := by
  have hl := linePasses_effect s
  have hrst : (linePasses s).bus.rst = (linePasses s).bus.lastRst := hl.rst.trans hl.lastRst.symm
  rcases pass_cases h with ⟨hb, -, hm⟩ | ⟨hidle, rfl⟩
  · obtain ⟨hselected, hlast, -⟩ := hm.latches
    exact
      { rstSeen := by rw [hlast, hm.pumpEffect.rst, hrst]
        selected := by rw [hm.sel_eq, hselected]; exact linePasses_selected s
        phase := fun _ => hm.quiet_or_pending rfl hb }
  · exact { rstSeen := hrst, selected := linePasses_selected s, phase := fun k => by rw [hidle] at k; cases k }

/-! ## The second pass reaches rest -/

/-- The first byte of a data reply is placed with REQ, which quiets the phase. -/
theorem PhaseMove.quiet_of_pending {s t : State} {p : Phase} (h : PhaseMove s p t) (hp : phaseOf s.bus = p)
    (hd : DataPending s.bus) : quietPhase t.bus (phaseOf t.bus) = true ∧ t.bus.bsy = s.bus.bsy := by
  have hp : p = .dataIn := hp.symm.trans hd.dataIn
  subst hp
  cases h with
  | stay hq => exact ⟨quietPhase_of_phaseOf hd.dataIn hq, rfl⟩
  | dataTaken hr _ => rw [hd.noReq] at hr; cases hr
  | dataPlaced _ ha _ => exact ⟨quietPhase_of_req_ne_ack (by simp [ha]) _, rfl⟩
  | dataWaits _ _ hi _ _ => exact absurd hi hd.byteLeft
  | dataDone _ _ hi _ => exact absurd hi hd.byteLeft

/-- A released bus is at rest. -/
theorem busRelease_atRest {s : State} (hrst : s.bus.rst = s.bus.lastRst)
    (h : (!s.bus.sel && !s.bus.bsy && s.bus.selected) = true) : AtRest (busRelease s) := by
  refine atRest_of_quiet ?_
  rw [busRelease, if_pos h]
  simp only [Bool.and_eq_true, Bool.not_eq_true'] at h
  obtain ⟨⟨hsel, hbsy⟩, -⟩ := h
  simp [quietBus, hrst, hsel, hbsy]

/-- Where only a release is due, a pass is that release. -/
theorem pass_of_release {s : State} (hrst : s.bus.rst = s.bus.lastRst)
    (h : (!s.bus.sel && !s.bus.bsy && s.bus.selected) = true) : pass s = .ok (busRelease s) := by
  simp only [Bool.and_eq_true, Bool.not_eq_true'] at h
  obtain ⟨⟨hsel, hbsy⟩, hselected⟩ := h
  simp [pass, linePasses, resetEdge_of_eq hrst, busRelease, select, phasePass, hsel, hbsy, hselected]

/-- The pass after a pass ends at rest, so two passes always do (40_bus_phases.md R157). -/
theorem atRest_of_two_passes {s t u : State} (hst : pass s = .ok t) (htu : pass t = .ok u) : AtRest u := by
  obtain ⟨hrst, hsel, hphase⟩ := pass_afterPass hst
  cases hrelease : (!t.bus.sel && !t.bus.bsy && t.bus.selected) with
  | true =>
    have hu : u = busRelease t := Except.ok.inj (htu.symm.trans (pass_of_release hrst hrelease))
    exact hu ▸ busRelease_atRest hrst hrelease
  | false =>
    have hlines := linePasses_of_quiet hrst hrelease hsel
    rcases pass_cases htu with ⟨hb, ha, hm⟩ | ⟨-, hu⟩
    · rw [hlines] at hb ha hm
      rcases hphase (by simp [hb, ha]) with hq | hd
      · have hu : t = u := Except.ok.inj
          ((phaseStep_of_quiet hq).symm.trans ((pass_of_phase hrst hrelease hsel hb ha).symm.trans htu))
        exact hu ▸ htu
      · obtain ⟨hq, hbsy⟩ := hm.quiet_of_pending rfl hd
        have hafter := pass_afterPass htu
        exact atRest_of_quiet (by simp [quietBus, hafter.rstSeen, hafter.selected, hbsy, hb, hq])
    · rw [hlines] at hu
      exact hu ▸ htu

/-- The pump is two passes: with the pass that finds nothing to do, three are always enough (40_bus_phases.md R140, R157). -/
theorem pumpUpTo_eq (n : Nat) (s : State) : pumpUpTo (n + 3) s = (pass s).bind pass := by
  cases ht : pass s with
  | error f => simp only [pumpUpTo, ht, Except.bind]
  | ok t =>
    by_cases hst : busKey t.bus = busKey s.bus
    · have hts := pass_key ht hst
      subst hts
      simp only [pumpUpTo, ht, if_true, Except.bind]
    · cases hu : pass t with
      | error f => simp only [pumpUpTo, ht, hu, hst, if_false, Except.bind]
      | ok u =>
        have hrest : pass u = .ok u := atRest_of_two_passes ht hu
        by_cases htu : busKey u.bus = busKey t.bus
        · simp only [pumpUpTo, ht, hu, hst, htu, if_false, if_true, Except.bind]
        · simp only [pumpUpTo, ht, hu, hst, htu, hrest, if_false, if_true, Except.bind]

theorem pump_eq (s : State) : pump s = (pass s).bind pass := pumpUpTo_eq 5 s

theorem Except.bind_eq_error {ε α β : Type} {x : Except ε α} {f : α → Except ε β} {e : ε} (h : x.bind f = .error e) :
    x = .error e ∨ ∃ a, x = .ok a ∧ f a = .error e := by
  cases x with
  | error e' => cases h; exact .inl rfl
  | ok a => exact .inr ⟨a, rfl, h⟩

/-- A pump raises what one of its two passes raises. -/
theorem pump_error {s : State} {f : Fault} (h : pump s = .error f) :
    pass s = .error f ∨ ∃ t, pass s = .ok t ∧ pass t = .error f :=
  Except.bind_eq_error ((pump_eq s).symm.trans h)

/-! ## What a pass can raise -/

/-- The faults a command handler raises (60_exceptions.md R351): those of the disc, its tracks and its operands. -/
def commandFaults : List Fault :=
  [.noDisc, .trackOutOfRange, .frameOutsideTracks, .addressType3, .dirInfoSubFunction, .negativeLength]

theorem trackNumbered_error {d : Disc} {t : Nat} {f : Fault} (h : trackNumbered d t = .error f) : f ∈ commandFaults := by
  unfold trackNumbered at h
  split at h
  · cases h; decide
  · split at h <;> cases h; decide

theorem trackOrFault_error {d : Disc} {x : Frame} {f : Fault} (h : trackOrFault d x = .error f) : f ∈ commandFaults := by
  unfold trackOrFault at h
  split at h <;> cases h; decide

theorem Except.map_eq_error {ε α β : Type} {x : Except ε α} {g : α → β} {e : ε} (h : x.map g = .error e) : x = .error e := by
  cases x <;> cases h; rfl

theorem audioAddr_error {config : Config} {addr : AudioAddr} {f : Fault} (h : audioAddr config addr = .error f) :
    f ∈ commandFaults := by
  cases addr with
  | lba _ | msf _ _ _ => cases h
  | track number =>
    simp only [audioAddr] at h
    split at h
    · cases h; decide
    · exact trackNumbered_error (Except.map_eq_error h)
  | reserved => cases h; decide

theorem startMode_error {table : StartModeTable} {d : Disc} {lastFrame : Frame} {bits : BitVec 2} {x : Frame} {f : Fault}
    (h : startMode table d lastFrame bits x = .error f) : f ∈ commandFaults := by
  unfold startMode at h
  split at h
  · cases h
  · replace h := Except.map_eq_error h
    unfold startEnd at h
    split at h
    · exact trackOrFault_error (Except.map_eq_error h)
    · cases h

theorem startPlayer_error {x e : Frame} {s : State} {f : Fault} (h : startPlayer x e s = .error f) : f = .negativeLength := by
  unfold startPlayer at h
  split at h <;> cases h; rfl

theorem setAudioStart_error {mode : BitVec 2} {addr : AudioAddr} {s : State} {f : Fault}
    (h : setAudioStart mode addr s = .error f) : f ∈ commandFaults := by
  unfold setAudioStart at h
  split at h
  · cases h
  · rcases Except.bind_eq_error h with h | ⟨x, -, h⟩
    · exact audioAddr_error h
    · rcases Except.bind_eq_error h with h | ⟨y, -, h⟩
      · exact startMode_error h
      · rcases Except.bind_eq_error h with h | ⟨t, -, h⟩
        · rw [startPlayer_error h]; decide
        · cases h

theorem endPlayback_error {mode : BitVec 2} {x : Frame} {s : State} {f : Fault} (h : endPlayback mode x s = .error f) :
    f = .negativeLength := by
  unfold endPlayback at h
  split at h
  · cases h
  · rcases Except.bind_eq_error h with h | ⟨t, -, h⟩
    · unfold resumePlayer at h
      split at h
      · cases h
      · exact startPlayer_error h
    · cases h

theorem setAudioEnd_error {mode : BitVec 2} {addr : AudioAddr} {s : State} {f : Fault}
    (h : setAudioEnd mode addr s = .error f) : f ∈ commandFaults := by
  unfold setAudioEnd at h
  split at h
  · cases h
  · rcases Except.bind_eq_error h with h | ⟨x, -, h⟩
    · exact audioAddr_error h
    · rcases Except.bind_eq_error h with h | ⟨t, -, h⟩
      · rw [endPlayback_error h]; decide
      · cases h

theorem discOrFault_error {s : State} {f : Fault} (h : discOrFault s = .error f) : f ∈ commandFaults := by
  unfold discOrFault at h
  split at h <;> cases h; decide

theorem getSubchannelQ_error {s : State} {f : Fault} (h : getSubchannelQ s = .error f) : f ∈ commandFaults := by
  unfold getSubchannelQ at h
  split at h
  · cases h; decide
  · rcases Except.bind_eq_error h with h | ⟨x, -, h⟩
    · exact trackOrFault_error h
    · cases h

/-- A GET-DIR-INFO reply raises for want of a disc, or in what it looks up on it. -/
theorem discOrFault_bind_error {s : State} {g : Disc → Result} {f : Fault} (h : (discOrFault s).bind g = .error f)
    (hg : ∀ d, g d = .error f → f ∈ commandFaults) : f ∈ commandFaults := by
  rcases Except.bind_eq_error h with h | ⟨d, -, h⟩
  · exact discOrFault_error h
  · exact hg d h

theorem trackStartAndType_error {d : Disc} {track : Byte} {f : Fault} (h : trackStartAndType d track = .error f) :
    f ∈ commandFaults := by
  unfold trackStartAndType at h
  split at h
  · cases h
  · exact trackNumbered_error (Except.map_eq_error h)

theorem getDirInfo_error {subFunction track : Byte} {s : State} {f : Fault}
    (h : getDirInfo subFunction track s = .error f) : f ∈ commandFaults := by
  unfold getDirInfo at h
  split at h
  · cases h; decide
  · split at h
    · exact discOrFault_bind_error h fun d hd => by cases hd
    · exact discOrFault_bind_error h fun d hd => by cases hd
    · refine discOrFault_bind_error h fun d hd => ?_
      rcases Except.bind_eq_error hd with hd | ⟨x, -, hd⟩
      · exact trackStartAndType_error hd
      · cases hd
    · cases h; decide

/-- Everything a command handler can raise (41_scsi_commands.md R186, R188, R193, R196, R198). -/
theorem handler_error {c : Command} {s : State} {f : Fault} (h : handler c s = .error f) : f ∈ commandFaults := by
  cases c with
  | testUnitReady => rw [handler, testUnitReady] at h; split at h <;> cases h
  | read6 frame count =>
    rw [handler, read6] at h
    split at h
    · cases h
    · split at h <;> cases h
  | setAudioStart mode addr => exact setAudioStart_error h
  | setAudioEnd mode addr => exact setAudioEnd_error h
  | pause => rw [handler, pause] at h; split at h <;> cases h
  | getSubchannelQ => exact getSubchannelQ_error h
  | getDirInfo subFunction track => exact getDirInfo_error h

/-- Everything a phase step can raise (40_bus_phases.md R148, R149, R153). -/
inductive PhaseRaise (s : State) : Phase → Fault → Prop
  /-- A 257th command byte (R148). -/
  | overflow : s.bus.req = true → s.bus.ack = true → s.bus.commandBuffer.length = Config.commandCapacity →
      PhaseRaise s .command .commandOverflow
  /-- A block whose opcode names no command (R149). -/
  | unknown {op : Byte} {rest : List Byte} : s.bus.req = false → s.bus.ack = false → s.bus.commandBuffer = op :: rest →
      PhaseRaise s .command (.unknownOpcode op)
  /-- The command itself (R149). -/
  | command {c : Command} {f : Fault} : s.bus.req = false → s.bus.ack = false → s.bus.commandBuffer ≠ [] →
      handler c { s with bus.commandBuffer := [] } = .error f → PhaseRaise s .command f
  /-- A handshake in DataOut (R153). -/
  | dataOut : s.bus.req = true → s.bus.ack = true → PhaseRaise s .dataOut .dataOut

theorem commandStep_raises {s : State} {f : Fault} (h : commandStep s = .error f) : PhaseRaise s .command f := by
  unfold commandStep at h
  split at h
  · rename_i hra
    simp only [Bool.and_eq_true] at hra
    split at h <;> cases h
    exact .overflow hra.1 hra.2 ‹_›
  · split at h
    · obtain ⟨hr, ha⟩ := bool_and_not ‹_›
      split at h
      · cases h
      · rename_i op rest hbuffer
        have hne : s.bus.commandBuffer ≠ [] := by simp [hbuffer]
        unfold dispatch at h
        split at h
        · cases h; exact .unknown hr ha hbuffer
        · split at h
          · split at h
            · exact .command hr ha hne h
            · cases h; exact .unknown hr ha hbuffer
          · cases h
    · cases h

theorem phaseStep_raises {p : Phase} {s : State} {f : Fault} (h : phaseStep p s = .error f) : PhaseRaise s p f := by
  cases p with
  | command => exact commandStep_raises h
  | dataOut =>
    simp only [phaseStep, dataOutStep] at h
    split at h <;> cases h
    rename_i hra
    simp only [Bool.and_eq_true] at hra
    exact .dataOut hra.1 hra.2
  | busFree | status | messageIn | messageOut | dataIn => cases h

/-- A pass that raises does so in the phase step of a busy bus. -/
theorem pass_raises {s : State} {f : Fault} (h : pass s = .error f) :
    (linePasses s).bus.bsy = true ∧ PhaseRaise (linePasses s) (phaseOf (linePasses s).bus) f := by
  simp only [pass, phasePass] at h
  split at h
  · rename_i hb
    simp only [Bool.and_eq_true] at hb
    exact ⟨hb.1, phaseStep_raises h⟩
  · cases h

theorem PhaseRaise.ne_pumpDiverged {s : State} {p : Phase} {f : Fault} (h : PhaseRaise s p f) : f ≠ .pumpDiverged := by
  cases h with
  | command _ _ _ hh =>
    rintro rfl
    exact absurd (handler_error hh) (by decide)
  | _ => nofun

theorem pass_ne_pumpDiverged (s : State) : pass s ≠ .error .pumpDiverged :=
  fun h => (pass_raises h).2.ne_pumpDiverged rfl

/-- No pump diverges (40_bus_phases.md R157). -/
theorem pumpUpTo_ne_pumpDiverged (n : Nat) (s : State) : pumpUpTo (n + 3) s ≠ .error .pumpDiverged := by
  rw [pumpUpTo_eq]
  intro h
  rcases Except.bind_eq_error h with h | ⟨t, -, h⟩
  · exact pass_ne_pumpDiverged s h
  · exact pass_ne_pumpDiverged t h

theorem PhaseRaise.eq_dataOut {s : State} {p : Phase} (h : PhaseRaise s p .dataOut) : p = .dataOut := by
  cases h with
  | command _ _ _ hh => exact absurd (handler_error hh) (by decide)
  | dataOut => rfl

/-- A sound bus is never in DataOut (40_bus_phases.md R153). -/
theorem BusSound.phaseOf_ne_dataOut {b : Bus} (h : BusSound b) (hb : b.bsy = true) : phaseOf b ≠ .dataOut := by
  have hd := h.noDataOut hb
  unfold phaseOf
  split <;> simp_all

theorem pass_ne_dataOut {s : State} (h : BusSound s.bus) : pass s ≠ .error .dataOut := by
  intro hp
  obtain ⟨hb, hr⟩ := pass_raises hp
  exact (linePasses_sound h).phaseOf_ne_dataOut hb hr.eq_dataOut

/-- Neither of the two faults that a pump of a sound bus cannot raise (40_bus_phases.md R153, R157). -/
def PumpSafe (f : Fault) : Prop := f ≠ .dataOut ∧ f ≠ .pumpDiverged

theorem pump_error_safe {s : State} {f : Fault} (h : BusSound s.bus) (hp : pump s = .error f) : PumpSafe f := by
  constructor
  · rintro rfl
    rcases pump_error hp with hs | ⟨t, ht, hf⟩
    · exact pass_ne_dataOut h hs
    · exact pass_ne_dataOut (pass_sound h ht) hf
  · rintro rfl
    exact pumpUpTo_ne_pumpDiverged 5 s hp

theorem accessor_error_safe {s : State} {f : Fault} (h : BusSound s.bus) (ha : accessor s = .error f) : PumpSafe f := by
  unfold accessor at ha
  split at ha
  · rcases Except.bind_eq_error ha with hp | ⟨t, ht, hp⟩
    · exact pump_error_safe (s := { s with bus.ack := true }) { h with } hp
    · have hs : BusSound t.bus := pump_sound (s := { s with bus.ack := true }) { h with } ht
      exact pump_error_safe (s := { t with bus.ack := false }) { hs with } hp
  · cases ha

/-! ## What a step can raise -/

/-- Everything a host operation can raise: R101's fault, the player's, or that of a pump. -/
inductive StepRaise (s : State) : Fault → Prop
  /-- The reserved kind (30_encoding.md R101). -/
  | illegal : StepRaise s .illegalHostOp
  /-- The read of register 0x8 (44_host_registers.md R311), and a DMA tick that takes the byte offered (42_adpcm_dma.md R232). -/
  | access {t : State} {f : Fault} : t.bus = s.bus → accessor t = .error f → StepRaise s f
  /-- The pump of the SEL pulse (44_host_registers.md R300). -/
  | select {v : Byte} {f : Fault} : pump { s.setReg 0x0 v with bus.sel := true } = .error f → StepRaise s f
  /-- A player started with its end before its start (41_scsi_commands.md R201). -/
  | poll : StepRaise s .negativeLength
  /-- The last pump (44_host_registers.md R316). -/
  | pumped {u : State} {f : Fault} : PrePump s u → pump u = .error f → StepRaise s f

/-- A fault recorded by a rule that settled is what the rule raised, where its results record none. -/
theorem settle_raises {s t : State} {r : Result} {f : Fault} (h : settle s r = .next t) (hs : s.fault = none)
    (ht : t.fault = some f) (hr : ∀ u, r = .ok u → StepMove s u) : r = .error f := by
  rcases settle_next h with hu | ⟨g, hg, rfl⟩
  · have hfault : t.fault = s.fault := congrArg (·.2.2.2.1) (hr t hu).runFields
    rw [hfault, hs] at ht
    cases ht
  · cases ht
    exact hg

theorem hostWrite_raises {e : Result} {s t : State} {f : Fault} (h : hostWrite e s = .next t) (hs : s.fault = none)
    (ht : t.fault = some f) (he : ∀ u, e = .ok u → PrePump s u) (hr : e = .error f → StepRaise s f) : StepRaise s f := by
  have hf := settle_raises h hs ht fun u hu => by
    obtain ⟨w, hw, hp⟩ := Except.bind_eq_ok hu
    exact .pumped (he w hw) hp
  rcases Except.bind_eq_error hf with hf | ⟨w, hw, hp⟩
  · exact hr hf
  · exact .pumped (he w hw) hp

theorem hostWrite_ok_raises {s t u : State} {f : Fault} (hu : PrePump s u) (h : hostWrite (.ok u) s = .next t)
    (hs : s.fault = none) (ht : t.fault = some f) : StepRaise s f :=
  hostWrite_raises h hs ht (fun v hv => by cases hv; exact hu) nofun

theorem agentStep_raises {a : Agent} {r : Result} {s t : State} {f : Fault} (h : agentStep a r s = .next t)
    (hs : s.fault = none) (ht : t.fault = some f) (hm : agentEnabled s a = true → ∀ u, r = .ok u → StepMove s u)
    (hr : agentEnabled s a = true → r = .error f → StepRaise s f) : StepRaise s f := by
  obtain ⟨ha, hsettle⟩ := agentStep_next h
  exact hr ha (settle_raises hsettle hs ht (hm ha))

theorem sectorTick_raises {s : State} {f : Fault} (ha : s.audio.sectorTimerArmed = true) (h : sectorTick s = .error f) :
    StepRaise s f := by
  unfold sectorTick at h
  split at h
  · exact .pumped (.sector ha ‹_›) h
  · exact .pumped .nothing h

theorem dmaTick_raises {s : State} {f : Fault} (h : dmaTick s = .error f) : StepRaise s f := by
  rcases Except.bind_eq_error h with h | ⟨u, hu, hp⟩
  · unfold dmaTransfer at h
    split at h
    · rcases Except.bind_eq_error h with h | ⟨t, -, h⟩
      · exact .access rfl h
      · cases h
    · cases h
  · exact .pumped (dmaTransfer_prePump hu) hp

theorem nibbleTick_raises {s : State} {f : Fault} (ha : s.adpcm.playing = true) (h : nibbleTick s = .error f) :
    StepRaise s f := by
  unfold nibbleTick at h
  split at h
  · exact .pumped (.engine (.lowNibble ha)) h
  · exact .pumped (.engine (.highNibble ha)) h

theorem audioPoll_raises {ended : Bool} {s : State} {f : Fault} (h : audioPoll ended s = .error f) : StepRaise s f := by
  rcases Except.bind_eq_error h with h | ⟨u, hu, hp⟩
  · unfold pollAnswered at h
    split at h
    · unfold audioEnded at h
      split at h
      · rw [startPlayer_error h]; exact .poll
      · cases h
      · cases h
      · cases h
    · cases h
  · exact .pumped (.poll ended hu) hp

/-- A fault a host operation takes is one of these. -/
theorem exec_raises {i : Instr} {s t : State} {f : Fault} (hi : i.isHostOp = true) (h : exec i s = .next t)
    (hs : s.fault = none) (ht : t.fault = some f) : StepRaise s f := by
  have plain {r : State} (hx : exec i s = .next r) (hr : r.fault = s.fault) : StepRaise s f := by
    cases h.symm.trans hx
    rw [hr, hs] at ht
    cases ht
  cases i with
  | rd0x0 | rd0x1 | rd0x2 | rd0x3 | rd0x4 | rd0x5 | rd0x6 | rd0x7 | rd0x9 | rd0xB | rd0xC | rd0xD | rd0xE | rd0xF =>
    exact plain rfl rfl
  | rd0x8 => exact .access (recordRead_bus s _ _) (settle_raises h hs ht fun _ => .dataRead)
  | rd0xA => exact plain rfl (congrArg (·.2.2.2.1) StepMove.portRead.runFields)
  | wr0x0 v =>
    refine hostWrite_raises h hs ht (fun _ => write0_prePump) fun he => ?_
    rcases Except.bind_eq_error he with hp | ⟨u, -, hu⟩
    · exact .select hp
    · cases hu
  | wr0x1 v => exact hostWrite_ok_raises (.write1 v) h hs ht
  | wr0x2 v => exact hostWrite_ok_raises (.write2 v) h hs ht
  | wr0x3 _ | wr0xC _ => exact hostWrite_ok_raises .nothing h hs ht
  | wr0x4 v => exact hostWrite_ok_raises (.write4 v) h hs ht
  | wr0x5 v | wr0x6 v | wr0x8 v | wr0x9 v => exact hostWrite_ok_raises (.store v (by decide)) h hs ht
  | wr0x7 v => exact hostWrite_ok_raises (.write7 v) h hs ht
  | wr0xA v => exact hostWrite_ok_raises (.engine (.portWrite v)) h hs ht
  | wr0xB v => exact hostWrite_ok_raises (.engine (.dmaControlWrite v)) h hs ht
  | wr0xD v => exact hostWrite_ok_raises (.engine (.controlWrite v)) h hs ht
  | wr0xE v => exact hostWrite_ok_raises (.engine (.rateWrite v)) h hs ht
  | wr0xF v => exact hostWrite_ok_raises (.fade (.write v)) h hs ht
  | fade0x0 _ | fade0x1 _ | fade0x8 _ | fade0x9 _ | fade0xA _ | fade0xC _ | fade0xD _ | fade0xE _ =>
    exact hostWrite_ok_raises (.fade (.write _)) h hs ht
  | evTickSector => exact agentStep_raises h hs ht (fun ha _ => sectorTick_moves ha) sectorTick_raises
  | evTickDma => exact agentStep_raises h hs ht (fun _ _ => dmaTick_moves) fun _ => dmaTick_raises
  | evTickNibble => exact agentStep_raises h hs ht (fun ha _ => nibbleTick_moves ha) nibbleTick_raises
  | evFadeCdIn =>
    exact agentStep_raises h hs ht (fun ha _ => .pumped (.fade (.up .cd ha))) fun ha => .pumped (.fade (.up .cd ha))
  | evFadeCdOut =>
    exact agentStep_raises h hs ht (fun ha _ => .pumped (.fade (.down .cd ha))) fun ha => .pumped (.fade (.down .cd ha))
  | evFadeAdIn =>
    exact agentStep_raises h hs ht (fun ha _ => .pumped (.fade (.up .ad ha))) fun ha => .pumped (.fade (.up .ad ha))
  | evFadeAdOut =>
    exact agentStep_raises h hs ht (fun ha _ => .pumped (.fade (.down .ad ha))) fun ha => .pumped (.fade (.down .ad ha))
  | evPollAudio answer =>
    exact agentStep_raises (a := .audioEndPoll) h hs ht (fun _ _ => audioPoll_moves) fun _ => audioPoll_raises
  | reserved low => cases h; cases ht; exact .illegal
  | _ => cases hi

theorem StepRaise.safe {s : State} {f : Fault} (h : StepRaise s f) (hs : BusInv s) : PumpSafe f := by
  cases h with
  | illegal | poll => exact ⟨nofun, nofun⟩
  | access hb ha => exact accessor_error_safe (hb ▸ hs.sound) ha
  | @select v f hp => exact pump_error_safe (s := { s.setReg 0x0 v with bus.sel := true }) { hs.sound with } hp
  | pumped hu hp => exact pump_error_safe (hu.ready hs).sound hp

theorem step_fault_safe {s : State} {f : Fault} (hs : BusInv s) (h : step s = .fault f) : PumpSafe f := by
  obtain ⟨hfault, w, -, ⟨-, rfl⟩ | ⟨i, hd, ⟨u, hx, hu⟩ | hx⟩⟩ := step_fault h
  · exact ⟨nofun, nofun⟩
  · exact (exec_raises (decodeHostOp_isHostOp hd) hx hfault hu).safe hs
  · exact absurd hx (exec_ne_fault i s f)

/-- Settles O56: two passes always reach rest, and a sound bus is never in DataOut. -/
theorem pumpReachesRest : Obligations.PumpReachesRest :=
  ⟨fun s => ⟨pumpUpTo_ne_pumpDiverged 1 s, pumpUpTo_ne_pumpDiverged 5 s⟩,
    fun _ _ h => ⟨pump_atRest h, pump_of_atRest (pump_atRest h)⟩,
    fun _ hs => ⟨fun h => (step_fault_safe hs h).1 rfl, fun h => (step_fault_safe hs h).2 rfl⟩⟩

end Sys2Proof.Machine

/-! PROOFS. O28 to O31: the handshakes of the phases, each an edge of ACK written through register 0x2. -/

namespace Sys2Proof.Machine

/-! ## The branches of the phase steps (40_bus_phases.md R145 to R152) -/

theorem phaseStep_command_of_handshake {s : State} (hr : s.bus.req = true) (ha : s.bus.ack = true)
    (hl : s.bus.commandBuffer.length ≠ Config.commandCapacity) :
    phaseStep .command s = .ok { s with bus.commandBuffer := s.bus.commandBuffer ++ [s.bus.dataReg], bus.req := false } := by
  rw [phaseStep, commandStep, if_pos (by simp [hr, ha]), if_neg hl]

theorem phaseStep_command_of_full {s : State} (hr : s.bus.req = true) (ha : s.bus.ack = true)
    (hl : s.bus.commandBuffer.length = Config.commandCapacity) : phaseStep .command s = .error .commandOverflow := by
  rw [phaseStep, commandStep, if_pos (by simp [hr, ha]), if_pos hl]

theorem phaseStep_status_of_handshake {s : State} (hr : s.bus.req = true) (ha : s.bus.ack = true) :
    phaseStep .status s = .ok { s with bus.req := false, bus.statusSent := true } := by
  rw [phaseStep, statusStep, if_pos (by simp [hr, ha])]

theorem phaseStep_status_of_sent {s : State} (hr : s.bus.req = false) (ha : s.bus.ack = false) (hs : s.bus.statusSent = true)
    (hm : s.bus.messageAfterStatus = true) :
    phaseStep .status s = .ok { s with
      bus.statusSent := false, bus.messageAfterStatus := false, bus.msg := true, bus.req := true
      bus.dataReg := messageByte } := by
  rw [phaseStep, statusStep, if_neg (by simp [hr]), if_pos (by simp [hr, ha, hs])]
  exact congrArg Except.ok (if_pos hm)

theorem phaseStep_status_of_sent_unarmed {s : State} (hr : s.bus.req = false) (ha : s.bus.ack = false)
    (hs : s.bus.statusSent = true) (hm : s.bus.messageAfterStatus = false) :
    phaseStep .status s = .ok { s with bus.statusSent := false } := by
  rw [phaseStep, statusStep, if_neg (by simp [hr]), if_pos (by simp [hr, ha, hs])]
  exact congrArg Except.ok (if_neg (by simp [hm]))

theorem phaseStep_messageIn_of_handshake {s : State} (hr : s.bus.req = true) (ha : s.bus.ack = true) :
    phaseStep .messageIn s = .ok { s with bus.req := false, bus.messageSent := true } := by
  rw [phaseStep, messageInStep, if_pos (by simp [hr, ha])]

theorem phaseStep_messageIn_of_sent {s : State} (hr : s.bus.req = false) (ha : s.bus.ack = false)
    (hs : s.bus.messageSent = true) :
    phaseStep .messageIn s = .ok { s with bus.messageSent := false, bus.bsy := false } := by
  rw [phaseStep, messageInStep, if_neg (by simp [hr]), if_pos (by simp [hr, ha, hs])]

theorem phaseStep_dataIn_of_handshake {s : State} (hr : s.bus.req = true) (ha : s.bus.ack = true) :
    phaseStep .dataIn s = .ok { s with bus.req := false } := by
  rw [phaseStep, dataInStep, if_pos (by simp [hr, ha])]

theorem phaseStep_dataIn_of_byteLeft {s : State} (hr : s.bus.req = false) (ha : s.bus.ack = false)
    (hi : s.bus.dataIndex ≠ s.bus.dataSize) :
    phaseStep .dataIn s = .ok { s with
      bus.dataReg := dataByte s s.bus.dataIndex, bus.dataIndex := s.bus.dataIndex + 1, bus.req := true } := by
  rw [phaseStep, dataInStep, if_neg (by simp [hr]), if_pos (by simp [hr, ha]), if_neg hi]

theorem phaseStep_dataIn_of_drained {s : State} (hr : s.bus.req = false) (ha : s.bus.ack = false)
    (hi : s.bus.dataIndex = s.bus.dataSize) : phaseStep .dataIn s = .ok (dataDrained s) := by
  rw [phaseStep, dataInStep, if_neg (by simp [hr]), if_pos (by simp [hr, ha]), if_pos hi]

theorem dataDrained_of_waiting {s : State} (ht : s.bus.dataTransferred = false) :
    dataDrained s = { s with bus.irqStatus := s.bus.irqStatus &&& 0xBF } :=
  if_neg (by simp [ht])

theorem dataDrained_of_transferred {s : State} (ht : s.bus.dataTransferred = true) :
    dataDrained s = { replyStatus .ok s with
      bus.dataTransferred := false, bus.irqStatus := (s.bus.irqStatus &&& 0xBF) ||| 0x20 } :=
  if_pos ht

/-! ## An edge of ACK on a busy bus -/

/-- The state a write of register 0x2 pumps from: the byte stored and ACK at the level of its bit 7 (44_host_registers.md R302). -/
theorem exec_wr0x2 {s : State} {v : Byte} {b : Bool} (hv : v[7] = b) :
    exec (.wr0x2 v) s = hostWrite (.ok { s.setReg 0x2 v with bus.ack := b }) s := by
  subst hv
  rfl

/-- On a busy bus ACK moves no line: the pass of the write is the step of the phase. -/
theorem BusInv.pass_ackWrite {s : State} {p : Phase} (h : BusInv s) (hb : s.bus.bsy = true) (hp : phaseOf s.bus = p)
    (v : Byte) (b : Bool) :
    pass { s.setReg 0x2 v with bus.ack := b } = phaseStep p { s.setReg 0x2 v with bus.ack := b } := by
  obtain ⟨hrelease, hselect⟩ := h.quietLines
  subst hp
  exact pass_of_phase (s := { s.setReg 0x2 v with bus.ack := b }) h.rstSeen.symm hrelease hselect hb h.noAtn

/-- An edge of ACK whose phase step leaves a quiet phase. -/
theorem BusInv.exec_ackWrite {s t : State} {p : Phase} {v : Byte} {b : Bool} (h : BusInv s) (hb : s.bus.bsy = true)
    (hp : phaseOf s.bus = p) (hv : v[7] = b) (hstep : phaseStep p { s.setReg 0x2 v with bus.ack := b } = .ok t)
    (hbusy : t.bus.bsy = true) (hq : Machine.quietPhase t.bus (phaseOf t.bus) = true) : exec (.wr0x2 v) s = .next t := by
  have hpass := (h.pass_ackWrite hb hp v b).trans hstep
  have hafter := pass_afterPass hpass
  have hrest : AtRest t := atRest_of_quiet (by simp [quietBus, hafter.rstSeen, hafter.selected, hbusy, hq])
  rw [exec_wr0x2 hv]
  exact hostWrite_ok (pump_of_pass hpass hrest)

/-- An edge of ACK whose phase step frees BSY: the next pass of the pump releases the bus (40_bus_phases.md R142). -/
theorem BusInv.exec_ackWrite_release {s t : State} {p : Phase} {v : Byte} {b : Bool} (h : BusInv s) (hb : s.bus.bsy = true)
    (hp : phaseOf s.bus = p) (hv : v[7] = b) (hstep : phaseStep p { s.setReg 0x2 v with bus.ack := b } = .ok t)
    (hfree : (!t.bus.sel && !t.bus.bsy && t.bus.selected) = true) : exec (.wr0x2 v) s = .next (busRelease t) := by
  have hpass := (h.pass_ackWrite hb hp v b).trans hstep
  have hrst := (pass_afterPass hpass).rstSeen
  rw [exec_wr0x2 hv]
  exact hostWrite_ok (pump_of_two_passes hpass (pass_of_release hrst hfree) (busRelease_atRest hrst hfree))

/-- An edge of ACK whose phase step raises. -/
theorem BusInv.exec_ackWrite_error {s : State} {p : Phase} {v : Byte} {b : Bool} {f : Fault} (h : BusInv s)
    (hb : s.bus.bsy = true) (hp : phaseOf s.bus = p) (hv : v[7] = b)
    (hstep : phaseStep p { s.setReg 0x2 v with bus.ack := b } = .error f) :
    exec (.wr0x2 v) s = .next { s with fault := some f } := by
  rw [exec_wr0x2 hv]
  exact hostWrite_error (pump_of_pass_error ((h.pass_ackWrite hb hp v b).trans hstep))

/-- REQ is low while ACK is high (40_bus_phases.md R158). -/
theorem BusInv.req_of_ack {s : State} (h : BusInv s) (ha : s.bus.ack = true) : s.bus.req = false := by
  cases hr : s.bus.req with
  | false => rfl
  | true => exact absurd ⟨hr, ha⟩ h.noReqAck

theorem phaseOf_command {b : Bus} (h : (b.bsy, b.cd, b.msg, b.io) = (true, true, false, false)) :
    b.bsy = true ∧ phaseOf b = .command := by
  simp only [Prod.mk.injEq] at h
  obtain ⟨hb, hcd, hmsg, hio⟩ := h
  exact ⟨hb, by simp only [phaseOf, hb, hcd, hmsg, hio]⟩

theorem phaseOf_status {b : Bus} (h : (b.bsy, b.cd, b.msg, b.io) = (true, true, false, true)) :
    b.bsy = true ∧ phaseOf b = .status := by
  simp only [Prod.mk.injEq] at h
  obtain ⟨hb, hcd, hmsg, hio⟩ := h
  exact ⟨hb, by simp only [phaseOf, hb, hcd, hmsg, hio]⟩

theorem phaseOf_messageIn {b : Bus} (h : (b.bsy, b.cd, b.msg, b.io) = (true, true, true, true)) :
    b.bsy = true ∧ phaseOf b = .messageIn := by
  simp only [Prod.mk.injEq] at h
  obtain ⟨hb, hcd, hmsg, hio⟩ := h
  exact ⟨hb, by simp only [phaseOf, hb, hcd, hmsg, hio]⟩

theorem phaseOf_dataIn {b : Bus} (h : (b.bsy, b.cd, b.io) = (true, false, true)) :
    b.bsy = true ∧ phaseOf b = .dataIn := by
  simp only [Prod.mk.injEq] at h
  obtain ⟨hb, hcd, hio⟩ := h
  exact ⟨hb, by simp only [phaseOf, hb, hcd, hio]⟩

/-! ## The handshakes -/

/-- Settles O28. -/
theorem ackTakesCommandByte : Obligations.AckTakesCommandByte := by
  intro s v h hphase hr hv
  obtain ⟨hb, hp⟩ := phaseOf_command hphase
  constructor
  · intro hl
    exact h.exec_ackWrite hb hp hv (phaseStep_command_of_handshake hr rfl hl) hb (quietPhase_of_req_ne_ack (by simp) _)
  · intro hl
    exact h.exec_ackWrite_error hb hp hv (phaseStep_command_of_full hr rfl hl)

/-- Settles O29. -/
theorem ackTakesStatus : Obligations.AckTakesStatus := by
  intro s v h hphase
  obtain ⟨hb, hp⟩ := phaseOf_status hphase
  refine ⟨fun hr hv => ?_, fun ha hv hs => ⟨fun hm => ?_, fun hm => ?_⟩⟩
  · exact h.exec_ackWrite hb hp hv ((phaseStep_status_of_handshake hr rfl)) hb (quietPhase_of_req_ne_ack (by simp) _)
  · exact h.exec_ackWrite hb hp hv ((phaseStep_status_of_sent (h.req_of_ack ha) rfl hs hm)) hb
      (quietPhase_of_req_ne_ack (by simp) _)
  · have hr := h.req_of_ack ha
    exact h.exec_ackWrite hb hp hv ((phaseStep_status_of_sent_unarmed hr rfl hs hm)) hb
      (quietPhase_of_phaseOf hp (by simp [quietPhase, hr]))

/-- Settles O30: the message step frees BSY, and the second pass of the pump releases the bus. -/
theorem ackTakesMessage : Obligations.AckTakesMessage := by
  intro s v h hphase
  obtain ⟨hb, hp⟩ := phaseOf_messageIn hphase
  refine ⟨fun hr hv => ?_, fun ha hv hs => ?_⟩
  · exact h.exec_ackWrite hb hp hv ((phaseStep_messageIn_of_handshake hr rfl)) hb (quietPhase_of_req_ne_ack (by simp) _)
  · have hfree : (!s.bus.sel && !false && s.bus.selected) = true := by simp [h.noSel, h.selectedBusy, hb]
    have hstep := phaseStep_messageIn_of_sent (s := { s.setReg 0x2 v with bus.ack := false }) (h.req_of_ack ha) rfl hs
    exact (h.exec_ackWrite_release hb hp hv hstep hfree).trans (congrArg Host.Outcome.next (if_pos hfree))

/-- Settles O31. -/
theorem ackTakesDataByte : Obligations.AckTakesDataByte := by
  intro s v h hphase u
  obtain ⟨hb, hp⟩ := phaseOf_dataIn hphase
  refine ⟨fun hr hv => ?_, fun ha hv => ?_⟩
  · exact h.exec_ackWrite hb hp hv ((phaseStep_dataIn_of_handshake hr rfl)) hb (quietPhase_of_req_ne_ack (by simp) _)
  have hr : u.bus.req = false := h.req_of_ack ha
  have hdrained (hi : s.bus.dataIndex = s.bus.dataSize) : phaseStep .dataIn u = .ok (dataDrained u) :=
    phaseStep_dataIn_of_drained hr rfl hi
  refine ⟨fun hi => ?_, fun hi ht => ?_, fun hi ht => ?_⟩
  · exact h.exec_ackWrite hb hp hv ((phaseStep_dataIn_of_byteLeft hr rfl hi)) hb (quietPhase_of_req_ne_ack (by simp) _)
  · have hstep := (hdrained hi).trans (congrArg Except.ok (dataDrained_of_waiting ht))
    refine h.exec_ackWrite hb hp hv hstep hb (quietPhase_of_phaseOf hp ?_)
    have hclear (x : Byte) : x &&& 0xBF &&& ~~~irqReady = x &&& 0xBF := BitVec.and_assoc x _ _
    simp only [quietPhase, hr, hclear]
    simp [u, hi, ht]
  · have hstep := (hdrained hi).trans (congrArg Except.ok (dataDrained_of_transferred ht))
    exact h.exec_ackWrite hb hp hv hstep hb (quietPhase_of_req_ne_ack (by simp) _)

end Sys2Proof.Machine

/-! PROOFS. O32: the reset edge, written through register 0x4. -/

namespace Sys2Proof.Machine

/-- The reset edge is seen once: the level it records is the level it leaves (40_bus_phases.md R141). -/
theorem resetEdge_resetEdge (s : State) : resetEdge (resetEdge s) = resetEdge s :=
  resetEdge_of_eq ((resetEdge_effect s).rst.trans (resetEdge_effect s).lastRst.symm)

theorem pass_resetEdge (s : State) : pass (resetEdge s) = pass s := by
  simp only [pass, linePasses, resetEdge_resetEdge]

/-- A pump whose reset edge leaves the state at rest is that edge. -/
theorem pump_of_resetEdge {s : State} (h : AtRest (resetEdge s)) : pump s = .ok (resetEdge s) :=
  pump_of_pass ((pass_resetEdge s).symm.trans h) h

/-- A fall of RST only updates the level seen (40_bus_phases.md R141). -/
theorem resetEdge_of_fall {s : State} (h : s.bus.rst = false) (hl : s.bus.lastRst = true) :
    resetEdge s = { s with bus.lastRst := false } := by
  simp [resetEdge, h, hl]

theorem resetEdge_of_rise {s : State} (h : s.bus.rst = true) (hl : s.bus.lastRst = false) :
    resetEdge s = { resetEffects s with bus.lastRst := true } := by
  simp [resetEdge, resetEffects, h, hl]

/-- No phase looks at RST or at the level last seen. -/
theorem atRest_of_rst {s : State} (h : AtRest s) (b : Bool) : AtRest { s with bus.rst := b, bus.lastRst := b } := by
  rw [atRest_iff] at h ⊢
  simp only [quietBus, Bool.and_eq_true] at h ⊢
  obtain ⟨⟨⟨-, hrelease⟩, hselect⟩, hphase⟩ := h
  exact ⟨⟨⟨by simp, hrelease⟩, hselect⟩, hphase⟩

/-- A reset frees the bus, so nothing is left to release, to select or to step. -/
theorem resetEffects_atRest {s : State} (h : s.bus.rst = true) : AtRest { resetEffects s with bus.lastRst := true } :=
  atRest_of_quiet (by simp [quietBus, resetEffects, h])

/-- A write of register 0x4 whose reset edge leaves the state at rest (44_host_registers.md R304, R316). -/
theorem exec_wr0x4 {s t : State} {v : Byte} {b : Bool} (hv : v[1] = b)
    (ht : resetEdge { s.setReg 0x4 v with bus.rst := b } = t) (h : AtRest t) : exec (.wr0x4 v) s = .next t := by
  subst hv ht
  exact hostWrite_ok (pump_of_resetEdge h)

/-- Settles O32: by the level of RST before and after the write. -/
theorem resetLineWrite : Obligations.ResetLineWrite := by
  intro s v h
  have hl := h.rstSeen
  have hrest : AtRest (s.setReg 0x4 v) := atRest_congr (s := s) rfl h.atRest
  refine ⟨fun hv => ?_, fun hv hr => ?_, fun hv hr => ?_⟩
  · exact exec_wr0x4 hv (resetEdge_of_eq hl.symm) hrest
  · exact exec_wr0x4 hv (resetEdge_of_fall rfl (hl.trans hr)) (atRest_of_rst hrest false)
  · exact exec_wr0x4 hv (resetEdge_of_rise rfl (hl.trans hr))
      (resetEffects_atRest (s := { s.setReg 0x4 v with bus.rst := true }) rfl)

end Sys2Proof.Machine

/-! PROOFS. O10: the fall of ACK that dispatches a command. -/

namespace Sys2Proof

/-- The opcodes and their lengths (30_encoding.md R106). -/
def commandTable : List (Byte × Nat) :=
  [(0x00, 6), (0x08, 6), (0xD8, 10), (0xD9, 10), (0xDA, 10), (0xDD, 10), (0xDE, 10)]

theorem mem_commandTable_of_commandLength {op : Byte} {n : Nat} (h : commandLength op = some n) : (op, n) ∈ commandTable := by
  unfold commandLength at h
  split at h <;> cases h
  all_goals
    rename_i hop
    rw [eq_ofNat_of_toNat_eq hop]
    decide

theorem commandLength_of_mem_commandTable {op : Byte} {n : Nat} (h : (op, n) ∈ commandTable) : commandLength op = some n :=
  (by decide : ∀ x ∈ commandTable, commandLength x.1 = some x.2) (op, n) h

/-- Every opcode of the table has a layout (30_encoding.md R107, R108). -/
theorem commandOf_of_mem_commandTable {op : Byte} {n : Nat} (h : (op, n) ∈ commandTable) (bytes : List Byte) :
    ∃ c, commandOf op bytes = .ok c := by
  simp only [commandTable, List.mem_cons, List.not_mem_nil, Prod.mk.injEq, or_false] at h
  rcases h with ⟨rfl, -⟩ | ⟨rfl, -⟩ | ⟨rfl, -⟩ | ⟨rfl, -⟩ | ⟨rfl, -⟩ | ⟨rfl, -⟩ | ⟨rfl, -⟩ <;> exact ⟨_, rfl⟩

end Sys2Proof

namespace Sys2Proof.Machine

/-- A command row is its handler (log 19). -/
theorem exec_toInstr (c : Command) (s : State) : exec c.toInstr s = settle s (handler c s) := by
  cases c <;> rfl

/-! ## The branches of the dispatch (40_bus_phases.md R149) -/

section
variable {s : State} {op : Byte} {rest : List Byte}

/-- With ACK and REQ low and bytes in the buffer, the Command step is the dispatch. -/
theorem phaseStep_command_of_pending (hr : s.bus.req = false) (ha : s.bus.ack = false)
    (hc : s.bus.commandBuffer = op :: rest) : phaseStep .command s = dispatch op s := by
  rw [phaseStep, commandStep, if_neg (by simp [hr]), if_pos (by simp [hr, ha]), hc]

theorem dispatch_of_unknown (h : commandLength op = none) : dispatch op s = .error (.unknownOpcode op) := by
  rw [dispatch, h]

theorem dispatch_of_short {n : Nat} (h : commandLength op = some n) (hn : s.bus.commandBuffer.length ≠ n) :
    dispatch op s = .ok { s with bus.req := true } := by
  simp only [dispatch, h, hn, if_false]

theorem dispatch_of_complete {c : Command} {n : Nat} (h : commandLength op = some n) (hn : s.bus.commandBuffer.length = n)
    (hc : decodeCommand s.bus.commandBuffer = .ok c) :
    dispatch op s = handler c { s with bus.commandBuffer := [] } := by
  simp only [dispatch, h, hn, if_true, hc]

end

/-! ## The pump after a command -/

/-- With ACK low and no command byte held, no phase raises. -/
theorem pass_of_idle {s : State} (ha : s.bus.ack = false) (hc : s.bus.commandBuffer = []) : ∃ t, pass s = .ok t := by
  cases ht : pass s with
  | ok t => exact ⟨t, rfl⟩
  | error f =>
    have hl := linePasses_effect s
    have ha' := hl.ack.trans ha
    have hc' := hl.commandBuffer.trans hc
    obtain ⟨-, hr⟩ := pass_raises ht
    generalize phaseOf (linePasses s).bus = p at hr
    cases hr with
    | overflow _ hack _ | dataOut _ hack => rw [ha'] at hack; cases hack
    | unknown _ _ hbuffer => rw [hc'] at hbuffer; cases hbuffer
    | command _ _ hne _ => exact absurd hc' hne

/-- What a first pass leaves, a pump carries to the same end as the pump it began (40_bus_phases.md R157). -/
theorem pump_eq_of_pass {s t : State} (h : pass s = .ok t) : pump s = pump t := by
  have hs : pump s = pass t := by rw [pump_eq, h]; rfl
  cases hu : pass t with
  | error f => rw [hs, hu, pump_of_pass_error hu]
  | ok u => rw [hs, hu, pump_of_pass hu (atRest_of_two_passes h hu)]

/-- Settles O10, by what the opcode and the number of bytes say of the block. -/
theorem dispatchRunsCommand : Obligations.DispatchRunsCommand := by
  intro s v op rest h hfault hphase ha hv hc table u
  obtain ⟨hb, hp⟩ := phaseOf_command hphase
  have hr : u.bus.req = false := h.req_of_ack ha
  have hstep : phaseStep .command u = dispatch op u := phaseStep_command_of_pending hr rfl hc
  have hlen : u.bus.commandBuffer.length = rest.length + 1 := by rw [show u.bus.commandBuffer = op :: rest from hc]; rfl
  refine ⟨fun hout => ?_, fun n hn hshort => ?_, fun n hn hfull => ?_⟩
  · have hnone : commandLength op = none :=
      Option.eq_none_iff_forall_ne_some.mpr fun n hn => hout n (mem_commandTable_of_commandLength hn)
    exact h.exec_ackWrite_error hb hp hv (hstep.trans (dispatch_of_unknown hnone))
  · have hsome := commandLength_of_mem_commandTable hn
    exact h.exec_ackWrite hb hp hv (hstep.trans (dispatch_of_short hsome (hlen ▸ hshort))) hb
      (quietPhase_of_req_ne_ack (by simp) _)
  · have hsome := commandLength_of_mem_commandTable hn
    obtain ⟨c, hcmd⟩ := commandOf_of_mem_commandTable hn (op :: rest)
    have hdecode : decodeCommand (op :: rest) = .ok c := (decodeCommand_of_length (hfull ▸ hsome)).trans hcmd
    have hpass : pass u = handler c { u with bus.commandBuffer := [] } :=
      (h.pass_ackWrite hb hp v false).trans (hstep.trans (dispatch_of_complete hsome (hlen.trans hfull) (hc ▸ hdecode)))
    refine ⟨c, ?_⟩
    rw [exec_toInstr, exec_wr0x2 hv]
    cases hh : handler c { u with bus.commandBuffer := [] } with
    | error f =>
      refine ⟨_, hdecode, rfl, nofun, fun g hg => ?_⟩
      cases hg
      exact hostWrite_error (pump_of_pass_error (hpass.trans hh))
    | ok t =>
      have he := handler_effect hh
      obtain ⟨hack, -, -, -, -, -, -, hbuffer, -⟩ := he.lines
      refine ⟨t, hdecode, rfl, fun _ => ?_, fun f hf => ?_⟩
      · obtain ⟨w, hw⟩ := pass_of_idle hack hbuffer
        have hpump : pump t = .ok w := pump_of_pass hw (atRest_of_two_passes (hpass.trans hh) hw)
        exact ⟨w, hpump, hostWrite_ok ((pump_eq_of_pass (hpass.trans hh)).trans hpump)⟩
      · rw [he.fault.trans hfault] at hf
        cases hf

end Sys2Proof.Machine

/-! PROOFS. O44 to O48: TEST-UNIT-READY, READ(6), PAUSE and the two audio commands. A theorem stands in the namespace `Settled` where
the model has a function of its name. -/

namespace Sys2Proof.Machine

/-! ## O44 and O45: TEST-UNIT-READY and READ(6) -/

/-- Settles O44. -/
theorem Settled.testUnitReady : Obligations.TestUnitReady := by
  intro s
  refine settle_ok ?_
  rw [Machine.testUnitReady]
  cases s.config.disc <;> rfl

section
variable {frame : BitVec 21} {count : Byte} {s : State}

theorem read6_of_noDisc (h : s.config.disc = none) : read6 frame count s = .ok (replyStatus .check s) := by
  simp only [read6, h]

theorem read6_of_noFrames (h : s.config.disc ≠ none) (hc : count = 0) : read6 frame count s = .ok (replyStatus .ok s) := by
  obtain ⟨d, hd⟩ := Option.ne_none_iff_exists'.mp h
  simp only [read6, hd, hc, if_true]

theorem read6_of_frames (h : s.config.disc ≠ none) (hc : count ≠ 0) :
    read6 frame count s = .ok { stopActiveAudio s with
      audio.currentFrame := frame.setWidth 32
      audio.endFrame := toFrame (frame.toNat + count.toNat)
      audio.sectorTimerArmed := true } := by
  obtain ⟨d, hd⟩ := Option.ne_none_iff_exists'.mp h
  simp only [read6, hd, hc, if_false]

end

theorem stopActiveAudio_of_off {s : State} (h : s.audio.playbackStatus = .off) : stopActiveAudio s = s := by
  simp only [stopActiveAudio, h]

theorem stopActiveAudio_of_active {s : State} (h : s.audio.playbackStatus ≠ .off) :
    stopActiveAudio s = { s with
      audio.playbackStatus := .off, audio.endOfTrackArmed := false, hist := s.hist ++ [.playerStop] } := by
  unfold stopActiveAudio
  split
  · exact absurd ‹_› h
  · rfl

/-- The last frame of a READ(6) fits 32 bits: a 21-bit address and an 8-bit count. -/
theorem toFrame_read6 (frame : BitVec 21) (count : Byte) :
    toFrame (frame.toNat + count.toNat) = frame.setWidth 32 + count.setWidth 32 := by
  have hframe : (frame.setWidth 32).toNat = frame.toNat := BitVec.toNat_setWidth_of_le (by decide)
  have hcount : (count.setWidth 32).toNat = count.toNat := BitVec.toNat_setWidth_of_le (by decide)
  have hsum : (frame.setWidth 32).toNat + (count.setWidth 32).toNat < 2 ^ 32 := by omega
  rw [← toFrame_add hsum, hframe, hcount]

/-- Settles O45. -/
theorem readSix : Obligations.ReadSix := by
  refine fun frame count s => ⟨fun h => settle_ok (read6_of_noDisc h), fun h hc => settle_ok (read6_of_noFrames h hc),
    fun h hc => ?_⟩
  have hread := read6_of_frames (frame := frame) h hc
  rw [toFrame_read6] at hread
  refine ⟨fun hp => settle_ok ?_, fun hp => settle_ok ?_⟩
  · rw [hread, stopActiveAudio_of_off hp]
  · rw [hread, stopActiveAudio_of_active hp]

/-! ## The player's answer and O48: PAUSE -/

/-- A query of the player takes the schedule's next answer, or a free value (20_memory.md R84; log 9). -/
theorem PlayerAnswers.eq {s u : State} {f : Frame} (h : PlayerAnswers s f u) : f = playerFrame s ∧ u = askPlayerFrame s := by
  rcases h with ⟨rest, ha, rfl⟩ | ⟨ha, rfl, rfl⟩
  · simp only [playerFrame, askPlayerFrame, ha, State.push, and_self]
  · simp only [playerFrame, askPlayerFrame, ha, State.push, State.drew, and_self]

theorem pause_of_inactive {s : State} (h : s.config.disc = none ∨ s.audio.playbackStatus = .off) :
    pause s = .ok (replyStatus .check s) := by
  unfold pause
  split
  · rfl
  · rfl
  · rename_i hd hp
    exact (h.elim (by simp [hd]) hp).elim

theorem pause_of_active {s : State} (hd : s.config.disc ≠ none) (hp : s.audio.playbackStatus ≠ .off) :
    pause s = .ok (replyStatus .ok ({ askPlayerFrame s with
      audio.playbackStatus := .paused, audio.currentFrame := playerFrame s }.push (.playerPause true))) := by
  unfold pause
  split
  · exact absurd ‹_› hd
  · exact absurd ‹_› hp
  · rfl

/-- Settles O48. -/
theorem pauseCommand : Obligations.PauseCommand := by
  refine fun s => ⟨fun h => settle_ok (pause_of_inactive h), fun f u hd hp hu => settle_ok ?_⟩
  obtain ⟨rfl, rfl⟩ := hu.eq
  exact pause_of_active hd hp

/-! ## The audio commands: their rows, their address and the player -/

/-- Either row of an audio command is its handler (log 19). -/
theorem IsAudioCommand.exec_eq {cmd : AudioCommand} {mode : BitVec 2} {addr : AudioAddr} {i : Instr}
    (h : IsAudioCommand cmd mode addr i) (s : State) : exec i s = settle s (audioCommand cmd mode addr s) := by
  rcases h with ⟨rfl, rfl⟩ | ⟨rfl, rfl⟩ | ⟨_, rfl, rfl⟩ | ⟨_, _, _, rfl, rfl⟩ | ⟨_, rfl, rfl⟩ | ⟨rfl, rfl⟩ <;> rfl

/-- Only a track number asks the Sector Source (log 15). -/
theorem addressQueries_of_disc {config : Config} {d : Disc} (h : config.disc = some d) (addr : AudioAddr) :
    addressQueries config addr = match addr with
      | .track _ => [.tableOfContents d.tracks]
      | _ => [] := by
  cases addr with
  | track number => simp only [addressQueries, h, Option.toList_some, List.map_cons, List.map_nil]
  | lba | msf | reserved => rfl

theorem startPlayer_of_lt {f e : Frame} (s : State) (h : e < f) : startPlayer f e s = .error .negativeLength := if_pos h

theorem startPlayer_of_le {f e : Frame} (s : State) (h : f ≤ e) :
    startPlayer f e s = .ok (s.push (.playerStart f (e - f))) := if_neg (BitVec.not_lt.mpr h)

/-! ## O46: SET-AUDIO-START -/

/-- Entries for other pairs do not answer. -/
theorem startGiven_append_of_other {before rest : List StartEntry} {bits : BitVec 2} {f : Frame}
    (h : ∀ e ∈ before, e.bits = bits → e.start ≠ f) : startGiven (before ++ rest) bits f = startGiven rest bits f := by
  induction before with
  | nil => rfl
  | cons e before ih =>
    obtain ⟨he, hbefore⟩ := List.forall_mem_cons.mp h
    rw [List.cons_append, startGiven, if_neg (fun hpair => he hpair.1 hpair.2), ih hbefore]

/-- The first entry for a pair answers. -/
theorem startGiven_of_first {before rest : List StartEntry} {bits : BitVec 2} {f : Frame} {x : StartAnswer}
    (h : ∀ e ∈ before, e.bits = bits → e.start ≠ f) : startGiven (before ++ ⟨bits, f, x⟩ :: rest) bits f = some x := by
  rw [startGiven_append_of_other h, startGiven, if_pos ⟨rfl, rfl⟩]

theorem startGiven_of_other {entries : List StartEntry} {bits : BitVec 2} {f : Frame}
    (h : ∀ e ∈ entries, e.bits = bits → e.start ≠ f) : startGiven entries bits f = none := by
  rw [← List.append_nil entries, startGiven_append_of_other h, startGiven]

/-- A frame number known on both sides of 32 bits (log 12). -/
theorem eq_toFrame {e : Frame} {n : Nat} (hfits : n < 2 ^ 32 → e.toNat = n) (hfree : 2 ^ 32 ≤ n → e = Config.frameOverflow n) :
    e = toFrame n := by
  rcases Nat.lt_or_ge n (2 ^ 32) with h | h
  · rw [toFrame_of_lt h]
    exact eq_ofNat_of_toNat_eq (hfits h)
  · rw [toFrame_of_ge h, hfree h]

theorem trackOrFault_of_some {d : Disc} {f : Frame} {x : Nat × Track} (h : trackOf d f = some x) : trackOrFault d f = .ok x := by
  simp only [trackOrFault, h]

theorem trackOrFault_of_none {d : Disc} {f : Frame} (h : trackOf d f = none) :
    trackOrFault d f = .error .frameOutsideTracks := by
  simp only [trackOrFault, h]

theorem trackQueries_of_some {d : Disc} {f : Frame} {k : Nat} {t : Track} (h : trackOf d f = some (k, t)) :
    trackQueries d f = [.trackOf f k, .tableOfContents d.tracks] := by
  simp only [trackQueries, h]

/-- What START_MODE is said to give is what it computes, with its queries (41_scsi_commands.md R187). -/
theorem StartModeGives.startMode_eq {table : StartModeTable} {d : Disc} {lastFrame : Frame} {bits : BitVec 2} {f : Frame}
    {x : StartAnswer} {queries : List Event} (h : StartModeGives table d lastFrame bits f x queries) :
    startMode table d lastFrame bits f = .ok x ∧ startQueries table d bits f = queries := by
  rcases h with ⟨rfl, before, after, hgiven, hbefore⟩ | ⟨hother, hmode, harmed, hextent⟩
  · have hfirst : startGiven table.given bits f = some x := hgiven ▸ startGiven_of_first hbefore
    simp only [startMode, startQueries, hfirst, and_self]
  · have hnone := startGiven_of_other hother
    rcases hextent with ⟨hrow, rfl, hend⟩ | ⟨hrow, k, t, htrack, rfl, hfits, hfree⟩
    · simp only [startMode, startQueries, startEnd, hnone, hrow, ← hmode, ← harmed, ← hend, Except.map, and_self]
    · have hend : x.endFrame = toFrame (trackEndNat t) := eq_toFrame hfits hfree
      simp only [startMode, startQueries, startEnd, hnone, hrow, trackOrFault_of_some htrack, trackQueries_of_some htrack,
        ← hmode, ← harmed, ← hend, Except.map, and_self]

/-- A row that plays to the end of a track raises for a frame in no track (20_memory.md R74). -/
theorem startMode_of_outside {table : StartModeTable} {d : Disc} {lastFrame : Frame} {bits : BitVec 2} {f : Frame}
    (hother : ∀ e ∈ table.given, e.bits = bits → e.start ≠ f) (hrow : (startRow table bits).extent = .thisTrack)
    (htrack : trackOf d f = none) : startMode table d lastFrame bits f = .error .frameOutsideTracks := by
  simp only [startMode, startEnd, startGiven_of_other hother, hrow, trackOrFault_of_none htrack, Except.map]

section
variable {mode : BitVec 2} {addr : AudioAddr} {s : State} {d : Disc} {f : Frame}

theorem setAudioStart_of_noDisc (h : s.config.disc = none) : setAudioStart mode addr s = .ok (replyStatus .check s) := by
  simp only [setAudioStart, h]

theorem setAudioStart_of_badAddress {x : Fault} (hd : s.config.disc = some d) (ha : audioAddr s.config addr = .error x) :
    setAudioStart mode addr s = .error x := by
  simp only [setAudioStart, hd, ha]
  rfl

theorem setAudioStart_of_badStart {x : Fault} (hd : s.config.disc = some d) (ha : audioAddr s.config addr = .ok f)
    (hm : startMode s.config.startMode d s.audio.lastFrame mode f = .error x) : setAudioStart mode addr s = .error x := by
  simp only [setAudioStart, hd, ha, hm, bind, Except.bind]

theorem setAudioStart_of_answer {x : StartAnswer} (hd : s.config.disc = some d) (ha : audioAddr s.config addr = .ok f)
    (hm : startMode s.config.startMode d s.audio.lastFrame mode f = .ok x) :
    setAudioStart mode addr s = (startPlayer f x.endFrame
      { s.record (addressQueries s.config addr ++ startQueries s.config.startMode d mode f) with
        audio.currentFrame := f, audio.endFrame := x.endFrame, audio.playMode := x.mode
        audio.endOfTrackArmed := x.armed, audio.playbackStatus := .playing }).map (replyStatus .ok) := by
  simp only [setAudioStart, hd, ha, hm, bind, Except.bind]
  rfl

end

/-- Settles O46. -/
theorem Settled.setAudioStart : Obligations.SetAudioStart := by
  refine ⟨fun mode addr i s hi => ?_, rfl, rfl, rfl, rfl, rfl⟩
  rw [hi.exec_eq]
  refine ⟨fun h => settle_ok (setAudioStart_of_noDisc h), fun d hd => ⟨fun x ha => settle_error (setAudioStart_of_badAddress hd ha),
    fun f ha => ⟨fun hother hrow htrack => ?_, fun x queries hgives => ?_⟩⟩⟩
  · exact settle_error (setAudioStart_of_badStart hd ha (startMode_of_outside hother hrow htrack))
  · obtain ⟨hmode, hqueries⟩ := hgives.startMode_eq
    have hstart := setAudioStart_of_answer hd ha hmode
    refine ⟨fun hlt => settle_error ?_, fun hle => ?_⟩
    · exact hstart.trans (congrArg _ (startPlayer_of_lt _ hlt))
    · intro asked
      have hasked : addressQueries s.config addr = asked := addressQueries_of_disc hd addr
      refine settle_ok (hstart.trans ?_)
      rw [hasked, hqueries, startPlayer_of_le _ hle]
      rfl

/-! ## O47: SET-AUDIO-END -/

section
variable {mode : BitVec 2} {addr : AudioAddr} {s : State} {d : Disc} {f : Frame}

theorem setAudioEnd_of_noDisc (h : s.config.disc = none) : setAudioEnd mode addr s = .ok (replyStatus .check s) := by
  simp only [setAudioEnd, h]

theorem setAudioEnd_of_badAddress {x : Fault} (hd : s.config.disc = some d) (ha : audioAddr s.config addr = .error x) :
    setAudioEnd mode addr s = .error x := by
  simp only [setAudioEnd, hd, ha]
  rfl

theorem setAudioEnd_of_address (hd : s.config.disc = some d) (ha : audioAddr s.config addr = .ok f) :
    setAudioEnd mode addr s = (endPlayback mode f { s.record (addressQueries s.config addr) with
      audio.endFrame := f, audio.playMode := playModeOf mode }).map (replyStatus .ok) := by
  simp only [setAudioEnd, hd, ha]
  rfl

end

theorem endPlayback_of_stop {mode : BitVec 2} (f : Frame) (s : State) (h : mode = 0) :
    endPlayback mode f s = .ok (stopAtOnce s) := if_pos h

section
variable {mode : BitVec 2} {f : Frame} {s : State}

theorem endPlayback_of_paused (hm : mode ≠ 0) (h : s.audio.playbackStatus = .paused) :
    endPlayback mode f s = .ok { s with
      audio.playbackStatus := .playing, audio.endOfTrackArmed := true, hist := s.hist ++ [.playerPause false] } := by
  simp only [endPlayback, hm, if_false, resumeOrStart, resumePlayer, h]
  rfl

theorem resumePlayer_of_not_paused (h : s.audio.playbackStatus ≠ .paused) :
    resumePlayer f s = startPlayer s.audio.currentFrame f s := by
  unfold resumePlayer
  split
  · exact absurd ‹_› h
  · rfl

theorem endPlayback_of_negative (hm : mode ≠ 0) (h : s.audio.playbackStatus ≠ .paused) (hlt : f < s.audio.currentFrame) :
    endPlayback mode f s = .error .negativeLength := by
  simp only [endPlayback, hm, if_false, resumeOrStart, resumePlayer_of_not_paused h, startPlayer_of_lt _ hlt]
  rfl

theorem endPlayback_of_started (hm : mode ≠ 0) (h : s.audio.playbackStatus ≠ .paused) (hle : s.audio.currentFrame ≤ f) :
    endPlayback mode f s = .ok { s with
      audio.playbackStatus := .playing, audio.endOfTrackArmed := true
      hist := s.hist ++ [.playerStart s.audio.currentFrame (f - s.audio.currentFrame)] } := by
  simp only [endPlayback, hm, if_false, resumeOrStart, resumePlayer_of_not_paused h, startPlayer_of_le _ hle]
  rfl

end

/-- The modes that play on, and their end actions (10_state.md R33). -/
theorem playModeOf_of_playing {mode : BitVec 2} {m : PlayMode}
    (h : (mode = 1 ∧ m = .repeats) ∨ (mode = 2 ∧ m = .irqAtEnd) ∨ (mode = 3 ∧ m = .stopAtEnd)) :
    mode ≠ 0 ∧ playModeOf mode = m := by
  rcases h with ⟨rfl, rfl⟩ | ⟨rfl, rfl⟩ | ⟨rfl, rfl⟩ <;> decide

/-- Settles O47. -/
theorem Settled.setAudioEnd : Obligations.SetAudioEnd := by
  intro mode addr i s hi
  rw [hi.exec_eq]
  refine ⟨fun h => settle_ok (setAudioEnd_of_noDisc h), fun d hd => ⟨fun x ha => settle_error (setAudioEnd_of_badAddress hd ha),
    fun f ha => ?_⟩⟩
  intro asked
  have hasked : addressQueries s.config addr = asked := addressQueries_of_disc hd addr
  have hend := setAudioEnd_of_address (mode := mode) hd ha
  rw [hasked] at hend
  refine ⟨fun hm => ?_, fun m hm => ?_⟩
  · subst hm
    exact settle_ok (hend.trans (congrArg _ (endPlayback_of_stop _ _ rfl)))
  · obtain ⟨hne, rfl⟩ := playModeOf_of_playing hm
    refine ⟨fun hp => settle_ok ?_, fun hp hlt => settle_error ?_, fun hp hle => settle_ok ?_⟩
    · exact hend.trans (congrArg _ (endPlayback_of_paused hne (by exact hp)))
    · exact hend.trans (congrArg _ (endPlayback_of_negative hne (by exact hp) (by exact hlt)))
    · exact hend.trans (congrArg _ (endPlayback_of_started hne (by exact hp) (by exact hle)))

end Sys2Proof.Machine

/-! PROOFS. O49 and O50: the commands that reply data, GET-SUBCHANNEL-Q and GET-DIR-INFO. -/

namespace Sys2Proof.Machine

/-! ## O49: GET-SUBCHANNEL-Q -/

section
variable {s : State}

theorem getSubchannelQ_of_noDisc (h : s.config.disc = none) : getSubchannelQ s = .error .noDisc := by
  simp only [getSubchannelQ, h]

theorem getSubchannelQ_of_outside {d : Disc} (hd : s.config.disc = some d) (h : trackOf d (reportedFrame s) = none) :
    getSubchannelQ s = .error .frameOutsideTracks := by
  simp only [getSubchannelQ, hd, trackOrFault_of_none h]
  rfl

theorem getSubchannelQ_of_track {d : Disc} {k : Nat} {t : Track} (hd : s.config.disc = some d)
    (h : trackOf d (reportedFrame s) = some (k, t)) :
    getSubchannelQ s = .ok (replyData
      (subchannelReply (playStatusCode s.audio.playbackStatus) k t.start.toNat (reportedFrame s).toNat)
      ((askPosition s).record [.trackOf (reportedFrame s) k, .tableOfContents d.tracks])) := by
  simp only [getSubchannelQ, hd, trackOrFault_of_some h, trackQueries_of_some h]
  rfl

/-- While playback is off the position is the block's own; else the player is asked (41_scsi_commands.md R190). -/
theorem reportedFrame_of_off (h : s.audio.playbackStatus = .off) : reportedFrame s = s.audio.currentFrame := by
  simp only [reportedFrame, h]

theorem askPosition_of_off (h : s.audio.playbackStatus = .off) : askPosition s = s := by
  simp only [askPosition, h]

theorem reportedFrame_of_active (h : s.audio.playbackStatus ≠ .off) : reportedFrame s = playerFrame s := by
  unfold reportedFrame
  split
  · exact absurd ‹_› h
  · rfl

theorem askPosition_of_active (h : s.audio.playbackStatus ≠ .off) : askPosition s = askPlayerFrame s := by
  unfold askPosition
  split
  · exact absurd ‹_› h
  · rfl

/-- While playback is active the player's answer is the position, and its query the one recorded. -/
theorem PlayerAnswers.position {f : Frame} {u : State} (h : PlayerAnswers s f u) (hp : s.audio.playbackStatus ≠ .off) :
    f = reportedFrame s ∧ u = askPosition s := by
  rw [reportedFrame_of_active hp, askPosition_of_active hp]
  exact h.eq

/-- A status, its code and the answer that goes with it are the code, the position and the query of the reply. -/
theorem position_eq {code : Byte} {f : Frame} {u : State}
    (h : (s.audio.playbackStatus = .playing ∧ code = 0x00#8 ∧ PlayerAnswers s f u) ∨
      (s.audio.playbackStatus = .paused ∧ code = 0x02#8 ∧ PlayerAnswers s f u) ∨
      (s.audio.playbackStatus = .off ∧ code = 0x03#8 ∧ f = s.audio.currentFrame ∧ u = s)) :
    code = playStatusCode s.audio.playbackStatus ∧ f = reportedFrame s ∧ u = askPosition s := by
  rcases h with ⟨hp, rfl, hu⟩ | ⟨hp, rfl, hu⟩ | ⟨hp, rfl, rfl, rfl⟩
  · exact ⟨by rw [hp]; rfl, hu.position (by simp [hp])⟩
  · exact ⟨by rw [hp]; rfl, hu.position (by simp [hp])⟩
  · exact ⟨by rw [hp]; rfl, (reportedFrame_of_off hp).symm, (askPosition_of_off hp).symm⟩

end

/-- Settles O49. -/
theorem Settled.subchannelReply : Obligations.SubchannelReply := by
  refine fun s => ⟨fun h => settle_error (getSubchannelQ_of_noDisc h), fun d code f u hd hposition => ?_⟩
  obtain ⟨rfl, rfl, rfl⟩ := position_eq hposition
  refine ⟨fun htrack => settle_error (getSubchannelQ_of_outside hd htrack), fun k t htrack => settle_ok ?_⟩
  have hbus : (askPosition s).bus = s.bus := (askPosition_effect s).2.1
  rw [getSubchannelQ_of_track hd htrack, ← hbus]
  rfl

/-! ## O50: GET-DIR-INFO -/

section
variable {s : State}

theorem dirInfoTracks_of_noDisc (h : s.config.disc = none) : dirInfoTracks s = .error .noDisc := by
  simp only [dirInfoTracks, discOrFault, h]
  rfl

theorem dirInfoDiscSize_of_noDisc (h : s.config.disc = none) : dirInfoDiscSize s = .error .noDisc := by
  simp only [dirInfoDiscSize, discOrFault, h]
  rfl

theorem dirInfoTrackStart_of_noDisc (h : s.config.disc = none) (track : Byte) :
    dirInfoTrackStart track s = .error .noDisc := by
  simp only [dirInfoTrackStart, discOrFault, h]
  rfl

theorem getDirInfo_of_noDisc (h : s.config.disc = none) (sub track : Byte) : getDirInfo sub track s = .error .noDisc := by
  simp only [getDirInfo, h]

variable {d : Disc}

theorem dirInfoTracks_of_disc (h : s.config.disc = some d) :
    dirInfoTracks s = .ok (replyData [bcdEnc 1, bcdEnc d.tracks.length] (askToc d s)) := by
  simp only [dirInfoTracks, discOrFault, h]
  rfl

theorem dirInfoDiscSize_of_disc (h : s.config.disc = some d) :
    dirInfoDiscSize s = .ok (replyData (msf (discEnd d + 150)) (askToc d s)) := by
  simp only [dirInfoDiscSize, discOrFault, h]
  rfl

theorem dirInfoTrackStart_of_disc (h : s.config.disc = some d) (track : Byte) :
    dirInfoTrackStart track s =
      (trackStartAndType d track).map fun x => replyData (msf (x.1 + 150) ++ [x.2]) (askToc d s) := by
  simp only [dirInfoTrackStart, discOrFault, h]
  rfl

/-- A sub-function of the table is its row, and any other raises (41_scsi_commands.md R193). -/
theorem getDirInfo_zero (h : s.config.disc = some d) (track : Byte) : getDirInfo 0 track s = dirInfoTracks s := by
  simp only [getDirInfo, h]
  rfl

theorem getDirInfo_one (h : s.config.disc = some d) (track : Byte) : getDirInfo 1 track s = dirInfoDiscSize s := by
  simp only [getDirInfo, h]
  rfl

theorem getDirInfo_two (h : s.config.disc = some d) (track : Byte) : getDirInfo 2 track s = dirInfoTrackStart track s := by
  simp only [getDirInfo, h]
  rfl

theorem getDirInfo_of_above {sub : Byte} (h : s.config.disc = some d) (hsub : 2 < sub.toNat) (track : Byte) :
    getDirInfo sub track s = .error .dirInfoSubFunction := by
  simp only [getDirInfo, h]
  split
  · omega
  · omega
  · omega
  · rfl

end

section
variable {d : Disc} {track : Byte}

theorem trackStartAndType_leadOut (d : Disc) : trackStartAndType d 0xAA = .ok (discEnd d, 0x04) := rfl

theorem trackTypeByte_eq (k : TrackKind) : trackTypeByte k = if k = .audio then 0x00 else 0x04 := by
  cases k <;> rfl

theorem trackStartAndType_of_listed {t : Track} (hne : track ≠ 0xAA) (ht : d.tracks[max (bcdDec track) 1 - 1]? = some t) :
    trackStartAndType d track = .ok (t.start.toNat, if t.kind = .audio then 0x00 else 0x04) := by
  rw [trackStartAndType, if_neg hne, trackNumbered_of_listed (le_max_right _ _) ht, ← trackTypeByte_eq]
  rfl

theorem trackStartAndType_of_past (hne : track ≠ 0xAA) (hpast : d.tracks.length < max (bcdDec track) 1) :
    trackStartAndType d track = .error .trackOutOfRange := by
  rw [trackStartAndType, if_neg hne, trackNumbered_of_out_of_range (.inr hpast)]
  rfl

end

/-- Settles O50: the two rows of a sub-function run one rule. -/
theorem dirInfoReply : Obligations.DirInfoReply := by
  refine fun s sub track => ⟨fun h => ⟨settle_error (getDirInfo_of_noDisc h sub track), settle_error (dirInfoTracks_of_noDisc h),
    settle_error (dirInfoDiscSize_of_noDisc h), settle_error (dirInfoTrackStart_of_noDisc h track)⟩, fun d h => ?_⟩
  intro reply
  refine ⟨fun hsub => settle_error (getDirInfo_of_above h hsub track), fun i hi => ?_, fun i hi => ?_, fun i hi => ?_⟩
  · have hrow : exec i s = settle s (dirInfoTracks s) := by
      rcases hi with rfl | rfl
      · rfl
      · exact congrArg (settle s) (getDirInfo_zero h track)
    exact hrow.trans (settle_ok (dirInfoTracks_of_disc h))
  · have hrow : exec i s = settle s (dirInfoDiscSize s) := by
      rcases hi with rfl | rfl
      · rfl
      · exact congrArg (settle s) (getDirInfo_one h track)
    exact hrow.trans (settle_ok (dirInfoDiscSize_of_disc h))
  · have hrow : exec i s = settle s (dirInfoTrackStart track s) := by
      rcases hi with rfl | rfl
      · rfl
      · exact congrArg (settle s) (getDirInfo_two h track)
    rw [hrow, dirInfoTrackStart_of_disc h]
    refine ⟨fun heq => ?_, fun hne t ht => ?_, fun hne hpast => ?_⟩
    · subst heq
      rfl
    · rw [trackStartAndType_of_listed hne ht]
      rfl
    · rw [trackStartAndType_of_past hne hpast]
      rfl

end Sys2Proof.Machine

/-! PROOFS. O39 and O43: the sector tick and the audio-end poll. -/

namespace Sys2Proof.Machine

/-! ## O39: the sector tick -/

/-- The bytes of a read are the sector's, or drawn (log 4). -/
theorem sectorBytes_eq (s : State) :
    sectorBytes s = (readSector s.config.disc s.audio.currentFrame).getD (drawnBytes s.draws 2048) := by
  unfold sectorBytes
  cases readSector s.config.disc s.audio.currentFrame <;> rfl

/-- The query of a sector records its answer, and draws 2048 bytes where it fails (20_memory.md R73). -/
theorem askSector_eq (s : State) :
    askSector s = { s with
      hist := s.hist ++ [.readSector s.audio.currentFrame (readSector s.config.disc s.audio.currentFrame).isSome (sectorBytes s)]
      draws := s.draws + (if (readSector s.config.disc s.audio.currentFrame).isSome then 0 else 2048) } := by
  unfold askSector sectorBytes
  cases readSector s.config.disc s.audio.currentFrame <;> rfl

/-- The load of a sector by an armed timer, with the end of the read as a truth value (41_scsi_commands.md R200). -/
theorem loadSector_eq {s : State} {last : Bool} (ha : s.audio.sectorTimerArmed = true)
    (hlast : decide (toFrame (s.audio.currentFrame.toNat + 1) = s.audio.endFrame) = last) :
    loadSector s = { askSector s with
      bus.dataBuffer := sectorBytes s ++ s.bus.dataBuffer.drop 2048
      bus.dataIndex := 0, bus.dataSize := 2048, bus.io := true, bus.cd := false
      bus.irqStatus := s.bus.irqStatus ||| 0x40, bus.dataTransferred := last
      audio.currentFrame := toFrame (s.audio.currentFrame.toNat + 1), audio.sectorTimerArmed := !last } := by
  have hdrop : overwrite s.bus.dataBuffer (sectorBytes s) = sectorBytes s ++ s.bus.dataBuffer.drop 2048 := by
    rw [overwrite, sectorBytes_length]
    rfl
  subst hlast
  by_cases hend : toFrame (s.audio.currentFrame.toNat + 1) = s.audio.endFrame
  · simp only [loadSector, askSector_eq, hdrop, hend, decide_true, if_true]
    rfl
  · simp only [loadSector, askSector_eq, hdrop, hend, decide_false, if_false, ha]
    rfl

/-- The pump from lines that are quiet, with a buffer newly loaded for DataIn: on a bus that waits it places the first byte
(40_bus_phases.md R152). -/
theorem pump_of_dataLoaded {t : State} (hrst : t.bus.rst = t.bus.lastRst) (hsel : t.bus.sel = false) (hatn : t.bus.atn = false)
    (hselected : t.bus.selected = t.bus.bsy) (hone : ¬ (t.bus.req = true ∧ t.bus.ack = true)) (hcd : t.bus.cd = false)
    (hio : t.bus.io = true) (hi : t.bus.dataIndex ≠ t.bus.dataSize) :
    pump t = .ok (if t.bus.bsy && !t.bus.req && !t.bus.ack then
      { t with bus.dataReg := dataByte t t.bus.dataIndex, bus.dataIndex := t.bus.dataIndex + 1, bus.req := true } else t) := by
  have hrelease : (!t.bus.sel && !t.bus.bsy && t.bus.selected) = false := by
    rw [hsel, hselected]
    cases t.bus.bsy <;> rfl
  have hselect : (t.bus.sel && !t.bus.selected) = false := by rw [hsel]; rfl
  cases hb : t.bus.bsy with
  | false => exact pump_of_atRest (atRest_of_quiet (by simp [quietBus, hrst, hsel, hselected, hb]))
  | true =>
    have hdataIn : phaseOf t.bus = .dataIn := (phaseOf_dataIn (by rw [hb, hcd, hio])).2
    by_cases hra : t.bus.req = t.bus.ack
    · have hr : t.bus.req = false := by simpa [← hra] using hone
      have ha : t.bus.ack = false := hra ▸ hr
      have hpass := (pass_of_phase hrst hrelease hselect hb hatn).trans
        ((congrArg (phaseStep · t) hdataIn).trans (phaseStep_dataIn_of_byteLeft hr ha hi))
      rw [if_pos (by simp [hr, ha])]
      refine pump_of_pass hpass (atRest_of_quiet ?_)
      simp [quietBus, hrst, hsel, hselected, hb, ha, quietPhase_of_req_ne_ack]
    · rw [if_neg (by revert hra; cases t.bus.req <;> cases t.bus.ack <;> simp)]
      refine pump_of_atRest (atRest_of_quiet ?_)
      simp [quietBus, hrst, hsel, hselected, hb, quietPhase_of_req_ne_ack hra]

/-- Settles O39: a load leaves the lines quiet and the buffer full, so the pump places its first byte or does nothing. -/
theorem Settled.sectorTick : Obligations.SectorTick := by
  intro s h ha
  have hexec : exec .evTickSector s = settle s (Machine.sectorTick s) := agentStep_of_enabled ha
  rw [hexec]
  refine ⟨fun hi => settle_ok ?_, fun hi => ?_⟩
  · rw [Machine.sectorTick, if_neg hi]
    exact pump_of_atRest h.atRest
  · intro answer bytes following last t
    have hbytes : sectorBytes s = bytes := sectorBytes_eq s
    have hload : loadSector s = t := by
      rw [loadSector_eq ha rfl, askSector_eq, hbytes]
    refine ⟨hbytes ▸ sectorBytes_length s, settle_ok ?_⟩
    rw [Machine.sectorTick, if_pos hi, hload]
    exact pump_of_dataLoaded (t := t) h.rstSeen.symm h.noSel h.noAtn h.selectedBusy h.noReqAck rfl rfl (by simp [t])

/-! ## O43: the audio-end poll -/

/-- No phase step looks at IRQ_DONE: the end of a data-in buffer clears IRQ_READY alone (40_bus_phases.md R152). -/
theorem quietPhase_of_irqDone {b : Bus} {p : Phase} (h : quietPhase b p = true) :
    quietPhase { b with irqStatus := b.irqStatus ||| irqDone } p = true := by
  cases p with
  | dataIn =>
    have hkeep (hready : b.irqStatus &&& ~~~irqReady = b.irqStatus) :
        (b.irqStatus ||| irqDone) &&& ~~~irqReady = b.irqStatus ||| irqDone := by
      rw [BitVec.and_or_distrib_right, hready]
      rfl
    simp only [quietPhase, Bool.and_eq_true, Bool.or_eq_true, decide_eq_true_eq] at h ⊢
    exact h.imp_right (Or.imp_right fun ⟨⟨hindex, hready⟩, hmore⟩ => ⟨⟨hindex, hkeep hready⟩, hmore⟩)
  | busFree | command | status | messageIn | messageOut | dataOut => exact h

theorem atRest_of_irqDone {s : State} (h : AtRest s) : AtRest { s with bus.irqStatus := s.bus.irqStatus ||| irqDone } := by
  rw [atRest_iff] at h ⊢
  simp only [quietBus, Bool.and_eq_true, Bool.or_eq_true] at h ⊢
  exact h.imp_right (Or.imp_right quietPhase_of_irqDone)

section
variable {s t : State} {ended : Bool}

theorem pollAnswered_of_idle (h : ended = false ∨ s.audio.endOfTrackArmed = false) : pollAnswered ended s = .ok s :=
  if_neg (by rcases h with h | h <;> simp [h])

theorem pollAnswered_of_end (he : ended = true) (h : s.audio.endOfTrackArmed = true) : pollAnswered ended s = audioEnded s :=
  if_pos (by simp [he, h])

/-- A poll that leaves the bus at rest is its answer (41_scsi_commands.md R201). -/
theorem exec_evPollAudio_of_ok (h : pollAnswered ended (s.push (.playerHasEnded ended)) = .ok t) (ht : AtRest t) :
    exec (.evPollAudio ended) s = .next t := by
  refine settle_ok ?_
  rw [audioPoll, h]
  exact pump_of_atRest ht

theorem exec_evPollAudio_of_error {f : Fault} (h : pollAnswered ended (s.push (.playerHasEnded ended)) = .error f) :
    exec (.evPollAudio ended) s = .next { s with fault := some f } := by
  refine settle_error ?_
  rw [audioPoll, h]
  rfl

/-! What an end does, by the play mode -/

theorem audioEnded_of_repeats (h : s.audio.playMode = .repeats) :
    audioEnded s = startPlayer s.audio.currentFrame s.audio.endFrame s := by
  simp only [audioEnded, h]

theorem audioEnded_of_irqAtEnd (h : s.audio.playMode = .irqAtEnd) :
    audioEnded s = .ok { s with audio.endOfTrackArmed := false, bus.irqStatus := s.bus.irqStatus ||| irqDone } := by
  simp only [audioEnded, h]

theorem audioEnded_of_disarm (h : s.audio.playMode = .stopAtEnd ∨ s.audio.playMode = .noEnd) :
    audioEnded s = .ok { s with audio.endOfTrackArmed := false } := by
  rcases h with h | h <;> simp only [audioEnded, h]

end

/-- Settles O43: only IRQ_DONE touches the bus, and it keeps it at rest. -/
theorem audioEndPoll : Obligations.AudioEndPoll := by
  intro s ended hrest q
  have hirq := atRest_of_irqDone hrest
  refine ⟨fun hidle => exec_evPollAudio_of_ok (pollAnswered_of_idle hidle) (atRest_congr (s := s) rfl hrest), fun he ha => ?_⟩
  have hend : pollAnswered ended q = audioEnded q := pollAnswered_of_end he ha
  refine ⟨fun hm hle => ?_, fun hm hlt => ?_, fun hm => ?_, fun hm => ?_, fun hm => ?_⟩
  · exact exec_evPollAudio_of_ok (hend.trans ((audioEnded_of_repeats (by exact hm)).trans (startPlayer_of_le q hle)))
      (atRest_congr (s := s) rfl hrest)
  · exact exec_evPollAudio_of_error (hend.trans ((audioEnded_of_repeats (by exact hm)).trans (startPlayer_of_lt q hlt)))
  · exact exec_evPollAudio_of_ok (hend.trans (audioEnded_of_irqAtEnd (by exact hm)))
      (atRest_congr (s := { s with bus.irqStatus := s.bus.irqStatus ||| irqDone }) rfl hirq)
  · exact exec_evPollAudio_of_ok (hend.trans (audioEnded_of_disarm (.inl (by exact hm)))) (atRest_congr (s := s) rfl hrest)
  · exact exec_evPollAudio_of_ok (hend.trans (audioEnded_of_disarm (.inr (by exact hm)))) (atRest_congr (s := s) rfl hrest)

end Sys2Proof.Machine

/-! PROOFS. O22, O33, O34, O36 and O59: the RAM data port, the DMA control register and the playback rate. A theorem stands in the
namespace `Settled` where the model has a function of its name. -/

namespace Sys2Proof.Machine

/-! ## O22: the port's reads (42_adpcm_dma.md R236) -/

section
variable {s : State}

theorem portRead_of_holdoff (h : 0 < s.adpcm.readHoldoff) :
    portRead s = { s with adpcm.readHoldoff := s.adpcm.readHoldoff - 1 } := if_neg h.ne'

theorem portRead_of_ready (h : s.adpcm.readHoldoff = 0) :
    portRead s = { s with adpcm.readPointer := s.adpcm.readPointer + 1 } := if_pos h

theorem portValue_of_holdoff (h : 0 < s.adpcm.readHoldoff) : portValue s = 0x00 := if_neg h.ne'

theorem portValue_of_ready (h : s.adpcm.readHoldoff = 0) : portValue s = memRead s s.adpcm.readPointer.toNat := if_pos h

/-- A read of the port records its value and then moves the port. -/
theorem exec_rd0xA {v : Byte} (hv : portValue s = v) : exec .rd0xA s = .next (portRead (s.push (.read 0xA v))) := by
  subst hv
  rfl

end

/-- Settles O22. -/
theorem ramPortRead : Obligations.RamPortRead := by
  refine fun s => ⟨fun h => ?_, fun h => ?_⟩
  · rw [exec_rd0xA (portValue_of_holdoff h), portRead_of_holdoff (by exact h)]
    rfl
  · rw [exec_rd0xA (portValue_of_ready h), portRead_of_ready (by exact h)]
    rfl

/-! ## O33: the port's writes (42_adpcm_dma.md R234) -/

section
variable {s : State}

theorem portWrite_of_holdoff (h : 0 < s.adpcm.writeHoldoff) (v : Byte) :
    portWrite v s = { s.setReg 0xA v with adpcm.writeHoldoff := s.adpcm.writeHoldoff - 1 } := if_neg h.ne'

theorem portWrite_of_ready (h : s.adpcm.writeHoldoff = 0) (v : Byte) :
    portWrite v s = storeAtWritePointer v (s.setReg 0xA v) := if_pos h

/-- From rest, a write of the port is its effect: it moves no line (44_host_registers.md R316). -/
theorem exec_wr0xA (h : AtRest s) (v : Byte) : exec (.wr0xA v) s = .next (portWrite v s) :=
  hostWrite_of_atRest h (EngineMove.portWrite v).bus

theorem memRead_portWrite (h : s.adpcm.writeHoldoff = 0) (v : Byte) (a : Nat) :
    memRead (portWrite v s) a = if a = s.adpcm.writePointer.toNat then v else memRead s a := by
  rw [portWrite_of_ready h]
  exact memRead_storeAtWritePointer v (s.setReg 0xA v) a

end

/-- Settles O33. -/
theorem ramPortWrite : Obligations.RamPortWrite := by
  intro s v hrest
  rw [exec_wr0xA hrest]
  refine ⟨fun h => by rw [portWrite_of_holdoff h], fun h => ⟨portWrite v s, rfl, ?_, ?_, fun a ha => ?_⟩⟩
  · rw [portWrite_of_ready h]
    rfl
  · rw [memRead_portWrite h, if_pos rfl]
  · rw [memRead_portWrite h, if_neg ha]

/-! ## O34 and O36: the DMA control register and the playback rate -/

/-- Settles O34. -/
theorem Settled.dmaControlWrite : Obligations.DmaControlWrite := by
  intro s v hrest
  have hexec : exec (.wr0xB v) s = .next (Machine.dmaControlWrite v s) :=
    hostWrite_of_atRest hrest (EngineMove.dmaControlWrite v).bus
  rw [hexec]
  refine ⟨fun h => ?_, fun h => ?_⟩
  · exact congrArg _ (if_pos h)
  · exact congrArg _ (if_neg h)

/-- The playback-rate field is below 16, so the divider is never 0 (42_adpcm_dma.md R243). -/
theorem dividerOf_bounds (v : Byte) : 1 ≤ dividerOf v ∧ dividerOf v ≤ 16 := by
  have hfield : (rateField v).toNat < 16 := (rateField v).isLt
  unfold dividerOf
  omega

/-- Settles O36. -/
theorem playbackRateWrite : Obligations.PlaybackRateWrite := by
  refine ⟨fun s v hrest => ?_, fun s => rfl⟩
  obtain ⟨hlow, hhigh⟩ := dividerOf_bounds v
  exact ⟨hlow, hhigh, hostWrite_of_atRest hrest (EngineMove.rateWrite v).bus⟩

/-! ## O59: a run of port writes -/

theorem runAll_cons {i : Instr} {s t : State} (h : exec i s = .next t) (is : List Instr) :
    runAll (i :: is) s = runAll is t := by
  rw [runAll, h]

/-- The address k + 1 bytes on from a pointer is k bytes on from the next pointer (42_adpcm_dma.md R234). -/
theorem succ_pointer_add (p : Addr) (k : Nat) : ((p + 1).toNat + k) % 65536 = (p.toNat + (k + 1)) % 65536 := by
  rw [BitVec.toNat_add]
  change ((p.toNat + 1) % 65536 + k) % 65536 = _
  omega

/-- Settles O59, by induction on the bytes: the first is stored and moves the pointer on by one, and fewer than 65536 further bytes do
not come round to it. -/
theorem portWritesWrapAround : Obligations.PortWritesWrapAround := by
  intro s bytes
  induction bytes generalizing s with
  | nil => exact fun _ _ => ⟨s, rfl, by simp, by simp, fun _ _ => rfl⟩
  | cons v rest ih =>
    intro hrest hready
    have hpointer : (portWrite v s).adpcm.writePointer = s.adpcm.writePointer + 1 := by
      rw [portWrite_of_ready hready]
      rfl
    have hready' : (portWrite v s).adpcm.writeHoldoff = 0 := by
      rw [portWrite_of_ready hready]
      exact hready
    have hfirst : s.adpcm.writePointer.toNat < 65536 := s.adpcm.writePointer.isLt
    obtain ⟨t, hrun, hend, hstored, hkept⟩ :=
      ih (portWrite v s) (atRest_congr (EngineMove.portWrite v).bus hrest) hready'
    simp only [hpointer, succ_pointer_add] at hend hstored hkept
    refine ⟨t, (runAll_cons (exec_wr0xA hrest v) _).trans hrun, ?_, fun k b hk hlast => ?_, fun a ha => ?_⟩
    · rw [hend, List.length_cons, BitVec.add_assoc, Nat.add_comm, BitVec.ofNat_add]
      rfl
    · cases k with
      | zero =>
        rw [List.length_cons] at hlast
        have hb : v = b := by simpa using hk
        rw [hkept _ fun k hk => by omega, memRead_portWrite hready, if_pos (by omega), hb]
      | succ k =>
        rw [List.length_cons] at hlast
        exact hstored k b (by simpa using hk) (by omega)
    · have hnot : a ≠ s.adpcm.writePointer.toNat := fun h => ha 0 (by simp) (by omega)
      rw [hkept a fun k hk => ha (k + 1) (by simpa using hk), memRead_portWrite hready, if_neg hnot]

end Sys2Proof.Machine

/-! PROOFS. O35: the ADPCM control register. -/

namespace Sys2Proof.Machine

/-! ## The bits of a control write, each as one update (42_adpcm_dma.md R237) -/

/-- Bit 7: the reset on its fall. -/
theorem controlReset_eq {old v : Byte} {reset : Bool} (h : (old[7] && !v[7]) = reset) (s : State) :
    controlReset old v s = { s with
      adpcm.readPointer := if reset then 0 else s.adpcm.readPointer
      adpcm.writePointer := if reset then 0 else s.adpcm.writePointer
      adpcm.playStartAddress := if reset then 0 else s.adpcm.playStartAddress
      adpcm.playEndAddress := if reset then 0 else s.adpcm.playEndAddress
      adpcm.playHalfAddress := if reset then 0 else s.adpcm.playHalfAddress
      adpcm.nibbleSelector := if reset then false else s.adpcm.nibbleSelector
      adpcm.playing := if reset then false else s.adpcm.playing
      hist := s.hist ++ (if reset then [.clockReset true] else []) } := by
  rw [controlReset, h]
  cases reset with
  | true => rfl
  | false => simp

/-- Bit 6: play start on its rise, stop while it is 0. -/
theorem controlPlay_eq {old v : Byte} {start : Bool} (h : (v[6] && !old[6]) = start) (s : State) :
    controlPlay old v s = { s with
      adpcm.playStartAddress := if start then s.adpcm.readPointer.toNat else s.adpcm.playStartAddress
      adpcm.playEndAddress := if start then s.adpcm.readPointer + s.adpcm.lengthRegister else s.adpcm.playEndAddress
      adpcm.playHalfAddress := if start then s.adpcm.readPointer + s.adpcm.lengthRegister / 2 else s.adpcm.playHalfAddress
      adpcm.nibbleSelector := if start then false else s.adpcm.nibbleSelector
      adpcm.playing := if start then true else if !v[6] then false else s.adpcm.playing
      hist := s.hist ++ (if start then [.clockReset false] else if !v[6] then [.clockReset true] else []) } := by
  rw [controlPlay, h]
  cases start with
  | true => rfl
  | false => cases v[6] with
    | true => simp
    | false => rfl

/-- Bit 4: the length. -/
theorem controlLength_eq (a : Addr) (v : Byte) (s : State) :
    controlLength a v s = { s with adpcm.lengthRegister := if v[4] then a else s.adpcm.lengthRegister } := by
  unfold controlLength
  split <;> rfl

/-- Bit 3: the read address, with its holdoff. -/
theorem controlReadAddress_eq (a : Addr) (v : Byte) (s : State) :
    controlReadAddress a v s = { s with
      adpcm.readPointer := if v[3] then a else s.adpcm.readPointer
      adpcm.readHoldoff := if v[3] then 2 else s.adpcm.readHoldoff } := by
  unfold controlReadAddress
  split <;> rfl

/-- Bits 1 and 0: the write address, with its holdoff. -/
theorem controlWriteAddress_eq (a : Addr) (v : Byte) (s : State) :
    controlWriteAddress a v s = { s with
      adpcm.writePointer := if v[1] then a else s.adpcm.writePointer
      adpcm.writeHoldoff := if v[1] then (if v[0] then 1 else 0) else s.adpcm.writeHoldoff } := by
  unfold controlWriteAddress
  split <;> rfl

/-- Settles O35: the updates of the bits, composed in their order. -/
theorem Settled.adpcmControlWrite : Obligations.AdpcmControlWrite := by
  intro s v hrest old a reset start rp
  have hexec : exec (.wr0xD v) s = .next (Machine.adpcmControlWrite v s) :=
    hostWrite_of_atRest hrest (EngineMove.controlWrite v).bus
  rw [hexec, Machine.adpcmControlWrite, controlReset_eq (reset := reset) rfl, controlPlay_eq (start := start) rfl,
    controlLength_eq, controlReadAddress_eq, controlWriteAddress_eq]
  rfl

end Sys2Proof.Machine

/-! PROOFS. O40 and O41: the DMA tick and the nibble tick. -/

namespace Sys2Proof.Machine

/-! ## The data accessor (40_bus_phases.md R155) -/

theorem dataDrained_push (s : State) (e : Event) : dataDrained (s.push e) = (dataDrained s).push e := by
  cases ht : s.bus.dataTransferred with
  | true => rw [dataDrained_of_transferred ht, dataDrained_of_transferred (by exact ht)]; rfl
  | false => rw [dataDrained_of_waiting ht, dataDrained_of_waiting (by exact ht)]; rfl

/-- DataIn neither reads nor writes the history (40_bus_phases.md R152). -/
theorem dataInStep_push (s : State) (e : Event) : dataInStep (s.push e) = (dataInStep s).push e := by
  simp only [dataInStep, push_bus, dataDrained_push, apply_ite (State.push · e)]
  rfl

theorem dataDrained_bus_only (s : State) : dataDrained s = { s with bus := (dataDrained s).bus } := by
  simp only [dataDrained]
  split <;> rfl

/-- DataIn moves nothing but the bus (40_bus_phases.md R152). -/
theorem dataInStep_bus_only (s : State) : dataInStep s = { s with bus := (dataInStep s).bus } := by
  simp only [dataInStep]
  split
  · rfl
  · split
    · split
      · exact dataDrained_bus_only s
      · rfl
    · rfl

/-- A step of DataIn leaves nothing for a second one, and BSY as it was: no branch leads to the condition of another. -/
theorem PhaseMove.quiet_of_dataIn {s t : State} (h : PhaseMove s .dataIn t) (hp : phaseOf s.bus = .dataIn)
    (hb : s.bus.bsy = true) : Machine.quietPhase t.bus (phaseOf t.bus) = true ∧ t.bus.bsy = true := by
  have hquiet := h.quiet_or_pending hp hb
  cases h with
  | stay hq => exact ⟨quietPhase_of_phaseOf hp hq, hb⟩
  | dataTaken _ ha | dataPlaced _ ha _ | dataDone _ ha _ _ => exact ⟨quietPhase_of_req_ne_ack (by simp [ha]) _, hb⟩
  | dataWaits _ _ hi _ _ => exact ⟨hquiet.resolve_right fun hd => hd.byteLeft hi, hb⟩

/-- In DataIn, with the lines quiet, the pump is one step of the phase. -/
theorem pump_of_dataIn {s : State} (h : BusSound s.bus) (hrst : s.bus.rst = s.bus.lastRst) (hsel : s.bus.sel = false)
    (hb : s.bus.bsy = true) (hp : phaseOf s.bus = .dataIn) : pump s = .ok (dataInStep s) := by
  have hpass : pass s = .ok (dataInStep s) := by
    rw [pass_of_phase hrst (by simp [hb]) (by simp [hsel]) hb h.noAtn, hp]
    rfl
  obtain ⟨hseen, hselected, -⟩ := pass_afterPass hpass
  obtain ⟨hquiet, hbusy⟩ := (dataInStep_moves s).quiet_of_dataIn hp hb
  exact pump_of_pass hpass (atRest_of_quiet (by simp [quietBus, hseen, hselected, hbusy, hquiet]))

/-- The accessor takes the byte offered, which lowers REQ, and then makes one more step of DataIn (40_bus_phases.md R155). -/
theorem BusInv.accessor_of_offered {s : State} (h : BusInv s) (hr : s.bus.req = true) (ha : s.bus.ack = false)
    (hcd : s.bus.cd = false) (hio : s.bus.io = true) :
    Machine.accessor s = .ok (dataInStep { s with bus.ack := false, bus.req := false }) := by
  have hb := h.reqBusy hr
  have hp : phaseOf s.bus = .dataIn := (phaseOf_dataIn (by rw [hb, hcd, hio])).2
  have htaken : dataInStep { s with bus.ack := true } = { s with bus.ack := true, bus.req := false } :=
    if_pos (by simp [hr])
  have hrise : pump { s with bus.ack := true } = .ok { s with bus.ack := true, bus.req := false } :=
    (pump_of_dataIn (s := { s with bus.ack := true }) { h.sound with } h.rstSeen.symm h.noSel hb hp).trans
      (congrArg _ htaken)
  have hfall := pump_of_dataIn (s := { s with bus.ack := false, bus.req := false }) { h.sound with reqBusy := nofun }
    h.rstSeen.symm h.noSel hb hp
  rw [Machine.accessor, if_pos (by simp [byteOffered, hr, ha, hcd, hio]), ackPulse, hrise]
  exact hfall

/-! ## O40: the DMA tick (42_adpcm_dma.md R232) -/

theorem exec_evTickDma {s : State} (h : s.adpcm.dmaTimerArmed = true) : exec .evTickDma s = settle s (dmaTick s) :=
  agentStep_of_enabled h

theorem dmaTick_of_stall {s : State} (h : byteOffered s.bus = false) : dmaTick s = pump (dmaStall s) := by
  rw [dmaTick, dmaTransfer, if_neg (by simp [h])]
  rfl

theorem dmaTick_of_offered {s t : State} (h : byteOffered s.bus = true) (ha : accessor s = .ok t) :
    dmaTick s = pump { storeAtWritePointer s.bus.dataReg t with adpcm.dmaBusy := true } := by
  rw [dmaTick, dmaTransfer, if_pos h, dmaMove, ha]
  rfl

/-- A stall of an armed timer, with its disarming as a truth value. -/
theorem dmaStall_eq {s : State} (h : s.adpcm.dmaTimerArmed = true) :
    dmaStall s = { s with
      adpcm.dmaBusy := false
      adpcm.dmaTimerArmed := !(s.config.dmaAutoDisarm && !s.audio.sectorTimerArmed) } := by
  simp only [dmaStall]
  split
  · rename_i hdisarm
    rw [hdisarm]
    rfl
  · rename_i hkeep
    rw [Bool.eq_false_of_not_eq_true hkeep, Bool.not_false, ← h]

/-- Settles O40: the pump finds nothing to do after a stall, and the accessor has left the bus at rest after a move. -/
theorem Settled.dmaTick : Obligations.DmaTick := by
  intro s h harmed
  rw [exec_evTickDma harmed]
  refine ⟨fun hnone => settle_ok ?_, fun hr ha hcd hio => ?_⟩
  · rw [dmaTick_of_stall hnone, dmaStall_eq harmed]
    exact pump_of_atRest (atRest_congr (s := s) rfl h.atRest)
  have hoffered : byteOffered s.bus = true := by simp [byteOffered, hr, ha, hcd, hio]
  have htaken := h.accessor_of_offered hr ha hcd hio
  have hrest := (h.accessor htaken).atRest
  have hbus := dataInStep_bus_only { s with bus.ack := false, bus.req := false }
  have hread := BusInv.accessor_of_offered (s := s.push (.read 0x8 s.bus.dataReg)) (h.congr rfl rfl rfl) hr ha hcd hio
  have hpush := dataInStep_push { s with bus.ack := false, bus.req := false } (.read 0x8 s.bus.dataReg)
  generalize dataInStep { s with bus.ack := false, bus.req := false } = t at htaken hrest hbus hpush
  have hstore (a : Nat) : memRead { storeAtWritePointer s.bus.dataReg t with adpcm.dmaBusy := true } a =
      if a = s.adpcm.writePointer.toNat then s.bus.dataReg else memRead s a := by
    rw [hbus]
    exact memRead_storeAtWritePointer s.bus.dataReg { s with bus := t.bus } a
  refine ⟨_, { storeAtWritePointer s.bus.dataReg t with adpcm.dmaBusy := true }, settle_ok (hread.trans (congrArg _ hpush)),
    settle_ok ?_, ?_, ?_, fun a hne => ?_⟩
  · rw [dmaTick_of_offered hoffered htaken]
    exact pump_of_atRest (atRest_congr (s := t) rfl hrest)
  · rw [hbus]
    rfl
  · rw [hstore, if_pos rfl]
  · rw [hstore, if_neg hne]

/-! ## O41: the nibble tick (42_adpcm_dma.md R241) -/

section
variable {s : State}

theorem lowNibble_of_inside
    (h : nextPlayAddress s.config.playAddrWrap s.adpcm.playStartAddress ≤ s.adpcm.playEndAddress.toNat) :
    lowNibble s = { s with
      adpcm.nibbleSelector := false
      adpcm.playStartAddress := nextPlayAddress s.config.playAddrWrap s.adpcm.playStartAddress
      hist := s.hist ++ [.clockNibble ((playedByte s).extractLsb' 0 4)] } := if_neg h.not_gt

theorem lowNibble_of_past
    (h : s.adpcm.playEndAddress.toNat < nextPlayAddress s.config.playAddrWrap s.adpcm.playStartAddress) :
    lowNibble s = { s with
      adpcm.nibbleSelector := false
      adpcm.playStartAddress := nextPlayAddress s.config.playAddrWrap s.adpcm.playStartAddress
      adpcm.playing := false
      hist := s.hist ++ [.clockNibble ((playedByte s).extractLsb' 0 4), .clockReset true] } := by
  refine (if_pos h).trans ?_
  simp only [playStop, State.push, List.append_assoc]
  rfl

/-- From rest, a nibble tick is the half it is due: neither half moves a line. -/
theorem exec_evTickNibble (hrest : AtRest s) (hp : s.adpcm.playing = true) :
    exec .evTickNibble s = .next (if s.adpcm.nibbleSelector then lowNibble s else highNibble s) := by
  have hexec : exec .evTickNibble s = settle s (nibbleTick s) := agentStep_of_enabled hp
  rw [hexec, nibbleTick]
  refine settle_ok (pump_of_atRest (atRest_congr ?_ hrest))
  split
  · exact (EngineMove.lowNibble hp).bus
  · exact (EngineMove.highNibble hp).bus

end

/-- Settles O41. -/
theorem Settled.nibbleTick : Obligations.NibbleTick := by
  intro s hrest hp b following
  rw [exec_evTickNibble hrest hp]
  refine ⟨fun hhigh => ?_, fun hlow hinside => ?_, fun hlow hpast => ?_⟩
  · rw [hhigh]
    rfl
  · rw [if_pos hlow, lowNibble_of_inside hinside]
    rfl
  · rw [if_pos hlow, lowNibble_of_past hpast]
    rfl

end Sys2Proof.Machine

/-! PROOFS. O57: only the RAM port and the DMA tick store. -/

namespace Sys2Proof.Machine

/-! ## What leaves RAM alone -/

section
variable {s t u : State}

theorem PumpEffect.ram (h : PumpEffect s t) : t.adpcm.ram = s.adpcm.ram := by rw [h.adpcm]

theorem PumpEffect.writePointer (h : PumpEffect s t) : t.adpcm.writePointer = s.adpcm.writePointer := by rw [h.adpcm]

theorem pump_ram (h : pump s = .ok t) : t.adpcm.ram = s.adpcm.ram := (pump_effect h).ram

/-- A rule that leaves RAM alone is an outcome that does: a raise leaves the state it found (60_exceptions.md R352). -/
theorem settle_ram {r : Result} (h : settle s r = .next t) (hr : ∀ u, r = .ok u → u.adpcm.ram = s.adpcm.ram) :
    t.adpcm.ram = s.adpcm.ram := by
  rcases settle_next h with ht | ⟨f, -, rfl⟩
  · exact hr t ht
  · rfl

theorem settle_handler_ram {r : Result} (h : settle s r = .next t) (hr : ∀ u, r = .ok u → HandlerEffect s u) :
    t.adpcm.ram = s.adpcm.ram :=
  settle_ram h fun u hu => congrArg Adpcm.ram (hr u hu).adpcm

theorem agentStep_ram {a : Agent} {r : Result} (h : agentStep a r s = .next t)
    (hr : ∀ u, r = .ok u → u.adpcm.ram = s.adpcm.ram) : t.adpcm.ram = s.adpcm.ram :=
  settle_ram (agentStep_next h).2 hr

theorem hostWrite_ram {e : Result} (h : hostWrite e s = .next t) (he : ∀ u, e = .ok u → u.adpcm.ram = s.adpcm.ram) :
    t.adpcm.ram = s.adpcm.ram := by
  rcases hostWrite_next h with ⟨u, hu, ht⟩ | ⟨f, rfl⟩
  · exact (pump_ram ht).trans (he u hu)
  · rfl

theorem hostWrite_ok_ram (h : hostWrite (.ok u) s = .next t) (hu : u.adpcm.ram = s.adpcm.ram) :
    t.adpcm.ram = s.adpcm.ram :=
  hostWrite_ram h fun _ hv => Except.ok.inj hv ▸ hu

/-! The rules that are more than one update -/

theorem write0_ram {v : Byte} (h : write0 v s = .ok t) : t.adpcm.ram = s.adpcm.ram := by
  obtain ⟨u, hu, h⟩ := Except.bind_eq_ok h
  cases h
  exact (pump_ram hu).trans rfl

theorem write7_ram (v : Byte) (s : State) : (write7 v s).adpcm.ram = s.adpcm.ram := by
  unfold write7
  dsimp only
  split <;> rfl

theorem dmaControlWrite_ram (v : Byte) (s : State) : (dmaControlWrite v s).adpcm.ram = s.adpcm.ram := by
  unfold dmaControlWrite
  dsimp only
  split <;> rfl

theorem adpcmControlWrite_ram (v : Byte) (s : State) : (adpcmControlWrite v s).adpcm.ram = s.adpcm.ram := by
  rw [adpcmControlWrite, controlReset_eq rfl, controlPlay_eq rfl, controlLength_eq, controlReadAddress_eq,
    controlWriteAddress_eq]
  rfl

theorem fadeWrite_ram (v : Byte) (s : State) : (fadeWrite v s).adpcm.ram = s.adpcm.ram :=
  congrArg Adpcm.ram (FadeMove.write v).adpcm

theorem portRead_ram (s : State) : (portRead s).adpcm.ram = s.adpcm.ram := by
  unfold portRead
  split <;> rfl

theorem dmaStall_ram (s : State) : (dmaStall s).adpcm.ram = s.adpcm.ram := by
  unfold dmaStall
  dsimp only
  split <;> rfl

theorem lowNibble_ram (s : State) : (lowNibble s).adpcm.ram = s.adpcm.ram := by
  unfold lowNibble
  dsimp only
  split <;> rfl

theorem nibbleTick_ram (h : nibbleTick s = .ok t) : t.adpcm.ram = s.adpcm.ram := by
  unfold nibbleTick at h
  split at h
  · exact (pump_ram h).trans (lowNibble_ram s)
  · exact (pump_ram h).trans rfl

theorem sectorTick_ram (h : sectorTick s = .ok t) : t.adpcm.ram = s.adpcm.ram := by
  unfold sectorTick at h
  split at h
  · exact (pump_ram h).trans (congrArg Adpcm.ram (loadSector_adpcm s))
  · exact pump_ram h

theorem setChannel_adpcm (s : State) (ch : Channel) (c : FadeChannel) : (s.setChannel ch c).adpcm = s.adpcm := by
  cases ch <;> rfl

theorem fadeInTick_ram {ch : Channel} (h : fadeInTick ch s = .ok t) : t.adpcm.ram = s.adpcm.ram :=
  (pump_ram h).trans (congrArg Adpcm.ram (setChannel_adpcm s ch _))

theorem fadeOutTick_ram {ch : Channel} (h : fadeOutTick ch s = .ok t) : t.adpcm.ram = s.adpcm.ram :=
  (pump_ram h).trans (congrArg Adpcm.ram (setChannel_adpcm s ch _))

theorem audioPoll_ram {ended : Bool} (h : audioPoll ended s = .ok t) : t.adpcm.ram = s.adpcm.ram := by
  obtain ⟨u, hu, ht⟩ := Except.bind_eq_ok h
  refine (pump_ram ht).trans ?_
  rcases pollAnswered_cases hu with rfl | ⟨e, rfl⟩ | rfl | rfl <;> rfl

/-- Every instruction but a write of the RAM port and a DMA tick leaves RAM alone (42_adpcm_dma.md R230). -/
theorem exec_ram {i : Instr} (h : exec i s = .next t) (hport : ∀ v, i ≠ .wr0xA v) (hdma : i ≠ .evTickDma) :
    t.adpcm.ram = s.adpcm.ram := by
  cases i with
  | rd0x0 | rd0x1 | rd0x2 | rd0x3 | rd0x4 | rd0x5 | rd0x6 | rd0x7 | rd0x9 | rd0xB | rd0xC | rd0xD | rd0xE | rd0xF =>
    cases h; rfl
  | rd0x8 => exact settle_ram h fun u hu => (accessor_effect hu).ram.trans rfl
  | rd0xA => cases h; exact portRead_ram _
  | wr0x0 v => exact hostWrite_ram h fun _ => write0_ram
  | wr0x1 _ | wr0x2 _ | wr0x3 _ | wr0x4 _ | wr0x5 _ | wr0x6 _ | wr0x8 _ | wr0x9 _ | wr0xC _ | wr0xE _ =>
    exact hostWrite_ok_ram h rfl
  | wr0x7 v => exact hostWrite_ok_ram h (write7_ram v s)
  | wr0xA v => exact absurd rfl (hport v)
  | wr0xB v => exact hostWrite_ok_ram h (dmaControlWrite_ram v s)
  | wr0xD v => exact hostWrite_ok_ram h (adpcmControlWrite_ram v s)
  | wr0xF _ | fade0x0 _ | fade0x1 _ | fade0x8 _ | fade0x9 _ | fade0xA _ | fade0xC _ | fade0xD _ | fade0xE _ =>
    exact hostWrite_ok_ram h (fadeWrite_ram _ s)
  | evTickSector => exact agentStep_ram h fun _ => sectorTick_ram
  | evTickDma => exact absurd rfl hdma
  | evTickNibble => exact agentStep_ram h fun _ => nibbleTick_ram
  | evFadeCdIn | evFadeAdIn => exact agentStep_ram h fun _ => fadeInTick_ram
  | evFadeCdOut | evFadeAdOut => exact agentStep_ram h fun _ => fadeOutTick_ram
  | evPollAudio answer => exact agentStep_ram (a := .audioEndPoll) h fun _ => audioPoll_ram
  | reserved low => cases h; rfl
  | testUnitReady => exact settle_handler_ram h fun _ => testUnitReady_effect
  | read6 frame count => exact settle_handler_ram h fun _ => read6_effect
  | setAudioStart mode addr => exact settle_handler_ram h fun _ => setAudioStart_effect
  | setAudioEnd mode addr => exact settle_handler_ram h fun _ => setAudioEnd_effect
  | pause => exact settle_handler_ram h fun _ => pause_effect
  | getSubchannelQ => exact settle_handler_ram h fun _ => getSubchannelQ_effect
  | getDirInfo subFunction track => exact settle_handler_ram h fun _ => getDirInfo_effect
  | dirInfoTracks => exact settle_handler_ram h fun _ => dirInfoTracks_effect
  | dirInfoDiscSize => exact settle_handler_ram h fun _ => dirInfoDiscSize_effect
  | dirInfoTrackStart track => exact settle_handler_ram h fun _ => dirInfoTrackStart_effect
  | audioAddrLba _ _ _ | audioAddrMsf _ _ _ _ _ | audioAddrTrack _ _ _ | audioAddrReserved _ _ =>
    exact settle_handler_ram h fun _ => audioCommand_effect

/-! ## What a store leaves alone -/

variable {a : Nat}

theorem memRead_portWrite_other (v : Byte) (ha : a ≠ s.adpcm.writePointer.toNat) :
    memRead (portWrite v s) a = memRead s a := by
  rcases Nat.eq_zero_or_pos s.adpcm.writeHoldoff with hready | hheld
  · rw [memRead_portWrite hready, if_neg ha]
  · rw [portWrite_of_holdoff hheld]
    rfl

/-- The accessor moves no pointer, so a moved byte goes where `writePointer` stood (42_adpcm_dma.md R232). -/
theorem memRead_dmaTransfer_other (h : dmaTransfer s = .ok u) (ha : a ≠ s.adpcm.writePointer.toNat) :
    memRead u a = memRead s a := by
  unfold dmaTransfer at h
  split at h
  · obtain ⟨t, ht, h⟩ := Except.bind_eq_ok h
    cases h
    have hkept := accessor_effect ht
    refine (memRead_storeAtWritePointer s.bus.dataReg t a).trans ?_
    rw [hkept.writePointer, if_neg ha]
    exact memRead_congr hkept.ram a
  · cases h
    exact memRead_congr (dmaStall_ram s) a

theorem memRead_exec_other {i : Instr} (h : exec i s = .next t) (ha : a ≠ s.adpcm.writePointer.toNat) :
    memRead t a = memRead s a := by
  cases i with
  | wr0xA v =>
    rcases hostWrite_next h with ⟨u, hu, ht⟩ | ⟨f, rfl⟩
    · cases hu
      exact (memRead_congr (pump_ram ht) a).trans (memRead_portWrite_other v ha)
    · rfl
  | evTickDma =>
    rcases settle_next (agentStep_next h).2 with ht | ⟨f, -, rfl⟩
    · obtain ⟨u, hu, hp⟩ := Except.bind_eq_ok ht
      exact (memRead_congr (pump_ram hp) a).trans (memRead_dmaTransfer_other hu ha)
    · rfl
  | _ => exact memRead_congr (exec_ram h nofun nofun) a

end

/-- Settles O57. -/
theorem onlyPortAndDmaStore : Obligations.OnlyPortAndDmaStore :=
  fun _ _ _ h => ⟨fun hport hdma a => memRead_congr (exec_ram h hport hdma) a, fun _ ha => memRead_exec_other h ha⟩

end Sys2Proof.Machine

/-! PROOFS. O37, O38, O42, O54 and O60: the fade controller. -/

namespace Sys2Proof.Machine

/-! ## O54: the invariant of the fades (43_fade.md R278, R280) -/

/-- Both fades start at the end they leave: a rise at volume 0, a fall at 100, and each puts the other timer off (R273, R274). -/
theorem FadeInv.fadeStart {c : FadeChannel} (h : FadeInv c) (a : FadeAction) : FadeInv (fadeStart a c) := by
  cases a with
  | unchanged => exact h
  | fadeIn p => exact ⟨Nat.zero_le 100, rfl, fun _ => rfl, fun _ => (by decide : 0 < 100), nofun⟩
  | fadeOut p => exact ⟨Nat.le_refl 100, (by decide : 100 % 10 = 0), nofun, nofun, fun _ => (by decide : 0 < 100)⟩

/-- A tick of an armed rise starts 10 or more below the bound, so it never passes it, and it stops the timer there (R276). -/
theorem FadeInv.rampUp {c : FadeChannel} (h : FadeInv c) (ha : c.fadeIn.isArmed = true) : FadeInv (rampUp c) := by
  obtain ⟨-, hsteps, hone, hrising, -⟩ := h
  have hlt := hrising ha
  have hvolume : (Machine.rampUp c).volume = c.volume + 10 := by
    change min (c.volume + 10) 100 = _
    omega
  have hout : (Machine.rampUp c).fadeOut.isArmed = false := hone ha
  refine ⟨by omega, by omega, fun _ => hout, fun hr => ?_, fun hf => absurd hf (by simp [hout])⟩
  have hne : (Machine.rampUp c).volume ≠ 100 := by
    intro hv
    have hoff : (Machine.rampUp c).fadeIn = .off := if_pos hv
    rw [hoff] at hr
    cases hr
  omega

/-- A tick of an armed fall starts at 10 or more, and it stops the timer at 0 (R277). -/
theorem FadeInv.rampDown {c : FadeChannel} (h : FadeInv c) (ha : c.fadeOut.isArmed = true) : FadeInv (rampDown c) := by
  obtain ⟨hbound, hsteps, hone, -, hfalling⟩ := h
  have hpos := hfalling ha
  have hvolume : (Machine.rampDown c).volume = c.volume - 10 := rfl
  have hin : (Machine.rampDown c).fadeIn.isArmed = false := Bool.eq_false_iff.mpr fun hi => by simp [hone hi] at ha
  refine ⟨by omega, by omega, fun hr => absurd hr (by simp [hin]), fun hr => absurd hr (by simp [hin]), fun hf => ?_⟩
  refine Nat.pos_of_ne_zero fun hv => ?_
  have hoff : (Machine.rampDown c).fadeOut = .off := if_pos hv
  rw [hoff] at hf
  cases hf

theorem FadesInv.congr {s t : State} (h : FadesInv s) (hcd : t.fadeCd = s.fadeCd) (had : t.fadeAd = s.fadeAd) : FadesInv t :=
  ⟨hcd ▸ h.cd, had ▸ h.ad⟩

theorem FadesInv.channel {s : State} (h : FadesInv s) : (ch : Channel) → FadeInv (s.channel ch)
  | .cd => h.cd
  | .ad => h.ad

theorem FadesInv.setChannel {s : State} (h : FadesInv s) {c : FadeChannel} (hc : FadeInv c) :
    (ch : Channel) → FadesInv (s.setChannel ch c)
  | .cd => ⟨hc, h.ad⟩
  | .ad => ⟨h.cd, hc⟩

theorem FadesInv.selectProgram {s : State} (h : FadesInv s) (p : BitVec 4) : FadesInv (selectProgram p s) := by
  unfold Machine.selectProgram
  split
  · exact ⟨h.cd.fadeStart _, h.ad.fadeStart _⟩
  · exact ⟨h.cd, h.ad⟩

theorem FadesInv.fadeWrite {s : State} (h : FadesInv s) (v : Byte) : FadesInv (fadeWrite v s) := by
  unfold Machine.fadeWrite
  split
  · exact ⟨h.cd, h.ad⟩
  · exact (h.selectProgram (fadeCode v)).congr rfl rfl

theorem FadeMove.fadesInv {s t : State} (hm : FadeMove s t) (h : FadesInv s) : FadesInv t := by
  cases hm with
  | write v => exact h.fadeWrite v
  | up ch ha => exact (h.setChannel ((h.channel ch).rampUp ha) ch).congr rfl rfl
  | down ch ha => exact (h.setChannel ((h.channel ch).rampDown ha) ch).congr rfl rfl

/-! Every other move leaves the channels alone. -/

theorem PumpEffect.fadesInv {s t : State} (e : PumpEffect s t) (h : FadesInv s) : FadesInv t := h.congr e.fadeCd e.fadeAd

theorem EngineMove.fades {s t : State} (hm : EngineMove s t) : t.fadeCd = s.fadeCd ∧ t.fadeAd = s.fadeAd := by
  rcases hm.engineOnly with h | ⟨r, v, -, h⟩ <;> rw [h] <;> exact ⟨rfl, rfl⟩

theorem write7_fades (v : Byte) (s : State) : (write7 v s).fadeCd = s.fadeCd ∧ (write7 v s).fadeAd = s.fadeAd := by
  unfold write7
  dsimp only
  split <;> exact ⟨rfl, rfl⟩

theorem loadSector_fades (s : State) : (loadSector s).fadeCd = s.fadeCd ∧ (loadSector s).fadeAd = s.fadeAd := by
  unfold loadSector askSector
  dsimp only
  split <;> split <;> exact ⟨rfl, rfl⟩

theorem pollAnswered_fades {ended : Bool} {s t : State} (h : pollAnswered ended s = .ok t) :
    t.fadeCd = s.fadeCd ∧ t.fadeAd = s.fadeAd := by
  rcases pollAnswered_cases h with rfl | ⟨e, rfl⟩ | rfl | rfl <;> exact ⟨rfl, rfl⟩

theorem portRead_fades (s : State) : (portRead s).fadeCd = s.fadeCd ∧ (portRead s).fadeAd = s.fadeAd := by
  unfold portRead
  split <;> exact ⟨rfl, rfl⟩

theorem PrePump.fadesInv {s t : State} (hm : PrePump s t) (h : FadesInv s) : FadesInv t := by
  cases hm with
  | write7 v => exact h.congr (write7_fades v s).1 (write7_fades v s).2
  | select v hp => exact ((pump_effect hp).fadesInv ⟨h.cd, h.ad⟩).congr rfl rfl
  | engine hm => exact h.congr hm.fades.1 hm.fades.2
  | dmaMove _ ha => exact ((accessor_effect ha).fadesInv h).congr rfl rfl
  | fade hm => exact hm.fadesInv h
  | sector _ _ => exact h.congr (loadSector_fades s).1 (loadSector_fades s).2
  | poll ended hp => exact h.congr (pollAnswered_fades hp).1 (pollAnswered_fades hp).2
  | _ => exact ⟨h.cd, h.ad⟩

theorem StepMove.fadesInv {s t : State} (hm : StepMove s t) (h : FadesInv s) : FadesInv t := by
  cases hm with
  | dataRead ha => exact (accessor_effect ha).fadesInv ⟨h.cd, h.ad⟩
  | portRead => exact h.congr (portRead_fades _).1 (portRead_fades _).2
  | pumped hu hp => exact (pump_effect hp).fadesInv (hu.fadesInv h)
  | _ => exact ⟨h.cd, h.ad⟩

/-- Settles O54: only a write of register 0xF and the ticks touch the channels, and a fault leaves them as they were. -/
theorem stepKeepsFadesInv : Obligations.StepKeepsFadesInv :=
  step_keeps (fun _ _ h hm => hm.fadesInv h) (fun _ h => ⟨h.cd, h.ad⟩) (fun _ _ h => ⟨h.cd, h.ad⟩)

/-! ## O37 and O38: the fade register (43_fade.md R271 to R275) -/

theorem setReg_getReg (s : State) (r : RegIndex) : s.setReg r (s.getReg r) = s := by
  simp [State.setReg, State.getReg]

theorem fadeProgram_of_not_mem {p : BitVec 4} :
    p ∉ [0x0#4, 0x1#4, 0x8#4, 0x9#4, 0xA#4, 0xC#4, 0xD#4, 0xE#4] → fadeProgram p = none := by
  revert p
  decide

section
variable {s : State} {v : Byte}

theorem fadeWrite_of_same (h : v = s.getReg 0xF) : fadeWrite v s = s := by
  rw [fadeWrite, if_pos h, h, setReg_getReg]

theorem fadeWrite_of_unknown (h : v ≠ s.getReg 0xF) (hp : fadeProgram (fadeCode v) = none) :
    fadeWrite v s = { s.setReg 0xF v with hist := s.hist ++ [.unknownFadeProgram (fadeCode v)] } := by
  rw [fadeWrite, if_neg h, selectProgram, hp]
  rfl

theorem fadeWrite_of_program {cd ad : FadeAction} (hp : fadeProgram (fadeCode v) = some (cd, ad)) :
    fadeWrite v s = if v = s.getReg 0xF then s
      else { s.setReg 0xF v with fadeCd := fadeStart cd s.fadeCd, fadeAd := fadeStart ad s.fadeAd } := by
  split
  · exact fadeWrite_of_same ‹_›
  · rw [fadeWrite, if_neg ‹_›, selectProgram, hp]
    rfl

/-- From rest, a write of the fade register is its effect: it moves no line. -/
theorem hostWrite_fadeWrite (hrest : AtRest s) (v : Byte) : hostWrite (.ok (fadeWrite v s)) s = .next (fadeWrite v s) :=
  hostWrite_of_atRest hrest (FadeMove.write v).bus

/-- From rest, the byte of a program of the table starts the program's fades, whatever its high nibble. -/
theorem hostWrite_fadeByte (hrest : AtRest s) (high : BitVec 4) {p : BitVec 4} {cd ad : FadeAction}
    (hp : fadeProgram p = some (cd, ad)) :
    hostWrite (.ok (fadeWrite (fadeByte high p) s)) s = .next (if high ++ p = s.getReg 0xF then s
      else { s.setReg 0xF (high ++ p) with fadeCd := fadeStart cd s.fadeCd, fadeAd := fadeStart ad s.fadeAd }) := by
  have hcode : fadeProgram (fadeCode (fadeByte high p)) = some (cd, ad) := (congrArg _ (fadeByte_low high p)).trans hp
  rw [hostWrite_fadeWrite hrest, fadeWrite_of_program hcode]
  rfl

end

/-- Settles O37. -/
theorem fadeRegisterWrite : Obligations.FadeRegisterWrite := by
  intro s v hrest
  have hexec : exec (.wr0xF v) s = .next (fadeWrite v s) := hostWrite_fadeWrite hrest v
  rw [hexec]
  refine ⟨fun hsame => by rw [fadeWrite_of_same hsame], fun hne hcode => ?_⟩
  rw [fadeWrite_of_unknown hne (fadeProgram_of_not_mem hcode)]
  rfl

/-- Settles O38: each row writes the byte of its program, whose actions the table gives. -/
theorem fadePrograms : Obligations.FadePrograms := by
  intro s high hrest fadeIn short long run
  have program (p : BitVec 4) {cd ad : FadeAction} (hp : fadeProgram p = some (cd, ad)) :
      hostWrite (.ok (fadeWrite (fadeByte high p) s)) s = run (high ++ p) (fadeStart cd s.fadeCd) (fadeStart ad s.fadeAd) :=
    hostWrite_fadeByte hrest high hp
  exact ⟨(program 0x0 rfl :), (program 0x1 rfl :), (program 0x8 rfl :), (program 0x9 rfl :),
    (program 0xA rfl :), (program 0xC rfl :), (program 0xD rfl :), (program 0xE rfl :)⟩

/-! ## O42: the ticks (43_fade.md R276, R277) -/

/-- The two directions of a fade. -/
inductive Ramp where
  | up | down

/-- The event of a tick in this direction on this channel. -/
def Ramp.instr : Ramp → Channel → Instr
  | .up, .cd => .evFadeCdIn
  | .up, .ad => .evFadeAdIn
  | .down, .cd => .evFadeCdOut
  | .down, .ad => .evFadeAdOut

/-- The agent of that event. -/
def Ramp.agent : Ramp → Channel → Agent
  | .up, .cd => .fadeCdIn
  | .up, .ad => .fadeAdIn
  | .down, .cd => .fadeCdOut
  | .down, .ad => .fadeAdOut

/-- The timer of this direction. -/
def Ramp.timer : Ramp → FadeChannel → FadeTimer
  | .up, c => c.fadeIn
  | .down, c => c.fadeOut

/-- What a tick does to its channel. -/
def Ramp.move : Ramp → FadeChannel → FadeChannel
  | .up, c => rampUp c
  | .down, c => rampDown c

/-- The state after a tick: the channel moved, and its volume pushed to the sink (R270). -/
def Ramp.tick (d : Ramp) (ch : Channel) (s : State) : State :=
  (s.setChannel ch (d.move (s.channel ch))).push (volumeEvent ch (d.move (s.channel ch)).volume)

section
variable {s : State} {d : Ramp} {ch : Channel}

theorem agentEnabled_ramp (d : Ramp) (ch : Channel) (s : State) :
    agentEnabled s (d.agent ch) = (d.timer (s.channel ch)).isArmed := by
  cases d <;> cases ch <;> rfl

theorem exec_ramp (d : Ramp) (ch : Channel) (s : State) :
    exec (d.instr ch) s = agentStep (d.agent ch) (pump (d.tick ch s)) s := by
  cases d <;> cases ch <;> rfl

theorem Ramp.tick_bus (d : Ramp) (ch : Channel) (s : State) : (d.tick ch s).bus = s.bus := by
  cases ch <;> rfl

theorem Ramp.tick_channel (d : Ramp) (ch : Channel) (s : State) : (d.tick ch s).channel ch = d.move (s.channel ch) := by
  cases ch <;> rfl

/-- From rest, the tick of an armed timer is its effect: it moves no line. -/
theorem exec_ramp_of_armed (hrest : AtRest s) {p : FadePeriod} (h : d.timer (s.channel ch) = .armed p) :
    exec (d.instr ch) s = .next (d.tick ch s) := by
  have henabled : agentEnabled s (d.agent ch) = true := by rw [agentEnabled_ramp, h]; rfl
  rw [exec_ramp, agentStep_of_enabled henabled]
  exact settle_ok (pump_of_atRest (atRest_congr (d.tick_bus ch s) hrest))

theorem exec_ramp_of_off (h : d.timer (s.channel ch) = .off) :
    exec (d.instr ch) s = .refused (.notEnabled (d.agent ch)) := by
  rw [exec_ramp]
  exact agentStep_of_not_enabled _ (by rw [agentEnabled_ramp, h]; rfl)

end

/-- Settles O42: a tick that does not reach its bound leaves the timer as it is, armed with the period it had. -/
theorem fadeTicks : Obligations.FadeTicks := by
  intro s p hrest
  refine ⟨fun h => ?_, fun h => ?_, fun h => ?_, fun h => ?_⟩ <;> rw [← h]
  · exact exec_ramp_of_armed (d := .up) (ch := .cd) hrest h
  · exact exec_ramp_of_armed (d := .up) (ch := .ad) hrest h
  · exact exec_ramp_of_armed (d := .down) (ch := .cd) hrest h
  · exact exec_ramp_of_armed (d := .down) (ch := .ad) hrest h

/-! ## O60: a whole fade (43_fade.md R279) -/

/-- Ticks run as long as the timer is armed before each of them. -/
theorem runAll_ramp {d : Ramp} {ch : Channel} (n : Nat) (s : State) (hrest : AtRest s)
    (harmed : ∀ k < n, ∃ p, d.timer (d.move^[k] (s.channel ch)) = .armed p) :
    ∃ t, runAll (List.replicate n (d.instr ch)) s = some t ∧ t.channel ch = d.move^[n] (s.channel ch) := by
  induction n generalizing s with
  | zero => exact ⟨s, rfl, rfl⟩
  | succ n ih =>
    obtain ⟨p, hp⟩ := harmed 0 n.succ_pos
    have hchannel := d.tick_channel ch s
    obtain ⟨t, hrun, ht⟩ := ih (d.tick ch s) (atRest_congr (d.tick_bus ch s) hrest) fun k hk => by
      rw [hchannel]
      exact harmed (k + 1) (Nat.succ_lt_succ hk)
    refine ⟨t, (runAll_cons (exec_ramp_of_armed hrest hp) _).trans hrun, ?_⟩
    rw [ht, hchannel]
    rfl

/-- The channel after n ticks of a fade from one bound to the other. -/
def Ramp.after (d : Ramp) (c : FadeChannel) (p : FadePeriod) (n : Nat) : FadeChannel :=
  match d with
  | .up => { c with volume := 10 * n, fadeIn := if n = 10 then .off else .armed p }
  | .down => { c with volume := 100 - 10 * n, fadeOut := if n = 10 then .off else .armed p }

theorem Ramp.timer_after (d : Ramp) (c : FadeChannel) (p : FadePeriod) (n : Nat) :
    d.timer (d.after c p n) = if n = 10 then .off else .armed p := by
  cases d <;> rfl

/-- One tick on, up to the tenth, which alone meets the bound. -/
theorem Ramp.move_after (d : Ramp) (c : FadeChannel) (p : FadePeriod) {n : Nat} (hn : n < 10) :
    d.move (d.after c p n) = d.after c p (n + 1) := by
  cases d with
  | up =>
    have hvolume : min (10 * n + 10) 100 = 10 * (n + 1) := by omega
    have hbound : 10 * (n + 1) = 100 ↔ n + 1 = 10 := by omega
    simp only [Ramp.move, Ramp.after, rampUp, Config.fadeStep, Config.fullVolume, hvolume, hbound, if_neg hn.ne]
  | down =>
    have hvolume : 100 - 10 * n - 10 = 100 - 10 * (n + 1) := by omega
    have hbound : 100 - 10 * (n + 1) = 0 ↔ n + 1 = 10 := by omega
    simp only [Ramp.move, Ramp.after, rampDown, Config.fadeStep, hvolume, hbound, if_neg hn.ne]

theorem Ramp.iterate_move {d : Ramp} {c : FadeChannel} {p : FadePeriod} (h0 : d.after c p 0 = c) {n : Nat} (hn : n ≤ 10) :
    d.move^[n] c = d.after c p n := by
  induction n with
  | zero => exact h0.symm
  | succ n ih => rw [Function.iterate_succ_apply', ih (by omega), d.move_after c p (by omega)]

/-- A fade of either channel in either direction, from the bound where it starts. -/
theorem fade_takes_ten_ticks {s : State} {d : Ramp} {ch : Channel} {p : FadePeriod} {n : Nat} (hrest : AtRest s)
    (h0 : d.after (s.channel ch) p 0 = s.channel ch) (hn : n ≤ 10) :
    ∃ t, runAll (List.replicate n (d.instr ch)) s = some t ∧ t.channel ch = d.after (s.channel ch) p n ∧
      (n = 10 → exec (d.instr ch) t = .refused (.notEnabled (d.agent ch))) := by
  obtain ⟨t, hrun, ht⟩ := runAll_ramp (d := d) (ch := ch) n s hrest fun k hk => by
    rw [Ramp.iterate_move h0 (by omega), d.timer_after, if_neg (by omega)]
    exact ⟨p, rfl⟩
  rw [Ramp.iterate_move h0 hn] at ht
  refine ⟨t, hrun, ht, fun hlast => exec_ramp_of_off ?_⟩
  rw [ht, d.timer_after, if_pos hlast]

theorem Ramp.up_after_zero {c : FadeChannel} {p : FadePeriod} (hv : c.volume = 0) (h : c.fadeIn = .armed p) :
    Ramp.up.after c p 0 = c := by
  obtain ⟨volume, fadeIn, fadeOut⟩ := c
  cases hv
  cases h
  rfl

theorem Ramp.down_after_zero {c : FadeChannel} {p : FadePeriod} (hv : c.volume = 100) (h : c.fadeOut = .armed p) :
    Ramp.down.after c p 0 = c := by
  obtain ⟨volume, fadeIn, fadeOut⟩ := c
  cases hv
  cases h
  rfl

/-- Settles O60: each fade starts where it stands after no tick. -/
theorem fadeTakesTenTicks : Obligations.FadeTakesTenTicks :=
  ⟨fun _ _ _ hrest hv h hn => fade_takes_ten_ticks (d := .up) (ch := .cd) hrest (Ramp.up_after_zero hv h) hn,
   fun _ _ _ hrest hv h hn => fade_takes_ten_ticks (d := .down) (ch := .cd) hrest (Ramp.down_after_zero hv h) hn,
   fun _ _ _ hrest hv h hn => fade_takes_ten_ticks (d := .up) (ch := .ad) hrest (Ramp.up_after_zero hv h) hn,
   fun _ _ _ hrest hv h hn => fade_takes_ten_ticks (d := .down) (ch := .ad) hrest (Ramp.down_after_zero hv h) hn⟩

end Sys2Proof.Machine

/-! PROOFS. O17 to O21, O23, O24 and O25: the host reads, and the host writes that move no line. -/

namespace Sys2Proof.Machine

/-! ## O17 to O19: the reads of lines, of stored bytes and of the ADPCM status (44_host_registers.md R303, R313) -/

theorem getElem_bitIf (b : Bool) (mask : Byte) (k : Nat) (hk : k < 8) : (bitIf b mask)[k] = (b && mask[k]) := by
  cases b with
  | true => rfl
  | false => simp [bitIf]

/-- Each line has a bit of register 0x0 to itself. -/
theorem getElem_busLines (b : Bus) (k : Nat) (hk : k < 8) :
    (busLines b)[k] = (b.bsy && (0x80 : Byte)[k] || b.req && (0x40 : Byte)[k] || b.msg && (0x20 : Byte)[k] ||
      b.cd && (0x10 : Byte)[k] || b.io && (0x08 : Byte)[k]) := by
  simp only [busLines, BitVec.getElem_or, getElem_bitIf]

theorem extractLsb'_bitIf (b : Bool) (mask : Byte) (k n : Nat) :
    (bitIf b mask).extractLsb' k n = if b then mask.extractLsb' k n else 0 := by
  cases b with
  | true => rfl
  | false => simp [bitIf]

theorem busLines_low (b : Bus) : (busLines b).extractLsb' 0 3 = 0#3 := by
  simp [busLines, BitVec.extractLsb'_or, extractLsb'_bitIf]

/-- Settles O17. -/
theorem statusRegisterReads : Obligations.StatusRegisterReads := by
  refine fun s => ⟨⟨busLines s.bus, rfl, ?_, ?_, ?_, ?_, ?_, busLines_low s.bus⟩, rfl⟩ <;> simp [getElem_busLines]

/-- Settles O18: each of these reads only records its value. -/
theorem storedRegisterReads : Obligations.StoredRegisterReads :=
  fun _ => ⟨rfl, rfl, rfl, rfl, rfl, rfl, rfl, rfl⟩

theorem getElem_adpcmStatus (a : Adpcm) (k : Nat) (hk : k < 8) :
    (adpcmStatus a)[k] = (a.playing && (0x08 : Byte)[k] || a.dmaBusy && (0x04 : Byte)[k] || !a.playing && (0x01 : Byte)[k]) := by
  simp only [adpcmStatus, BitVec.getElem_or, getElem_bitIf]

theorem adpcmStatus_high (a : Adpcm) : (adpcmStatus a).extractLsb' 4 4 = 0#4 := by
  simp [adpcmStatus, BitVec.extractLsb'_or, extractLsb'_bitIf]

/-- Settles O19. -/
theorem adpcmStatusRead : Obligations.AdpcmStatusRead := by
  refine fun s => ⟨adpcmStatus s.adpcm, rfl, adpcmStatus_high s.adpcm, ?_, ?_, ?_, ?_⟩ <;> simp [getElem_adpcmStatus]

/-! ## O20, O21, O24 and O25: writes that move no line, from rest (44_host_registers.md R316) -/

section
variable {s : State} (hrest : AtRest s) (v : Byte)
include hrest

/-- A register that only holds its byte. -/
theorem hostWrite_setReg (r : RegIndex) : hostWrite (.ok (s.setReg r v)) s = .next (s.setReg r v) :=
  hostWrite_of_atRest hrest rfl

/-- A write that stores nothing. -/
theorem hostWrite_self : hostWrite (.ok s) s = .next s := hostWrite_of_atRest hrest rfl

end

/-- Bit 7 unlocks BRAM, and no write locks it again (44_host_registers.md R305). -/
theorem write7_eq (v : Byte) (s : State) :
    write7 v s = { s.setReg 0x7 v with bramLocked := if v[7] then false else s.bramLocked } := by
  unfold write7
  dsimp only
  split <;> rfl

/-- Bit 7 of the read shows BRAM unlocked (44_host_registers.md R309). -/
theorem bramByte_eq (s : State) : bramByte s = (s.getReg 0x7 &&& 0x7F) ||| (if s.bramLocked then 0x00 else 0x80) := by
  unfold bramByte bitIf
  cases s.bramLocked <;> rfl

/-- Settles O20. -/
theorem bramUnlockAndRead : Obligations.BramUnlockAndRead := by
  refine ⟨fun s v hrest => ?_, fun s => ?_⟩
  · have hexec : exec (.wr0x7 v) s = hostWrite (.ok (write7 v s)) s := rfl
    rw [hexec, write7_eq]
    exact hostWrite_of_atRest hrest rfl
  · rw [← bramByte_eq]
    rfl

/-- Settles O21. -/
theorem cddaSampleRegisters : Obligations.CddaSampleRegisters :=
  ⟨fun _ => ⟨rfl, rfl⟩, fun _ v hrest => ⟨hostWrite_setReg hrest v 0x5, hostWrite_setReg hrest v 0x6⟩⟩

/-- Settles O24. -/
theorem discardedWrites : Obligations.DiscardedWrites :=
  fun _ _ hrest => ⟨hostWrite_self hrest, hostWrite_self hrest⟩

/-- No phase looks at the data register, so a write of register 0x1 leaves the bus at rest (40_bus_phases.md R144). -/
theorem write1_atRest {s : State} (hrest : AtRest s) (v : Byte) : AtRest (write1 v s) := by
  rw [atRest_iff] at hrest ⊢
  exact hrest

/-- Settles O25. -/
theorem dataAndAddressWrites : Obligations.DataAndAddressWrites :=
  fun _ v hrest => ⟨hostWrite_ok (pump_of_atRest (write1_atRest hrest v)), hostWrite_setReg hrest v 0x8,
    hostWrite_setReg hrest v 0x9⟩

/-! ## O23: the read of register 0x8 (44_host_registers.md R311) -/

theorem dataInStep_of_byteLeft {s : State} (hr : s.bus.req = false) (ha : s.bus.ack = false)
    (hi : s.bus.dataIndex ≠ s.bus.dataSize) : dataInStep s = { s with
      bus.dataReg := dataByte s s.bus.dataIndex, bus.dataIndex := s.bus.dataIndex + 1, bus.req := true } :=
  Except.ok.inj (phaseStep_dataIn_of_byteLeft hr ha hi)

theorem dataInStep_of_drained {s : State} (hr : s.bus.req = false) (ha : s.bus.ack = false)
    (hi : s.bus.dataIndex = s.bus.dataSize) : dataInStep s = dataDrained s :=
  Except.ok.inj (phaseStep_dataIn_of_drained hr ha hi)

theorem exec_rd0x8_of_none {s : State} (h : byteOffered s.bus = false) :
    exec .rd0x8 s = .next (recordRead 0x8 s.bus.dataReg s) :=
  settle_ok (if_neg (by simp [h]))

/-- A read takes the byte offered, and the step of DataIn that follows is what it leaves (40_bus_phases.md R155). -/
theorem BusInv.exec_rd0x8_of_offered {s : State} (h : BusInv s) (hr : s.bus.req = true) (ha : s.bus.ack = false)
    (hcd : s.bus.cd = false) (hio : s.bus.io = true) :
    exec .rd0x8 s = .next (dataInStep { recordRead 0x8 s.bus.dataReg s with bus.ack := false, bus.req := false }) :=
  settle_ok (BusInv.accessor_of_offered (s := recordRead 0x8 s.bus.dataReg s) (h.congr rfl rfl rfl) hr ha hcd hio)

/-- Settles O23: by whether a byte is offered, whether one is left, and whether the transfer was the last. -/
theorem dataInRead : Obligations.DataInRead := by
  intro s h r
  refine ⟨exec_rd0x8_of_none, fun hr ha hcd hio => ?_⟩
  rw [h.exec_rd0x8_of_offered hr ha hcd hio]
  refine ⟨fun hi => ?_, fun hi ht => ?_, fun hi ht => ?_⟩
  · rw [dataInStep_of_byteLeft rfl rfl (by exact hi)]
    simp [r, recordRead, State.push, hr, ha, dataByte]
  · rw [dataInStep_of_drained rfl rfl (by exact hi), dataDrained_of_waiting (by exact ht)]
    simp [r, recordRead, State.push, ha]
  · rw [dataInStep_of_drained rfl rfl (by exact hi), dataDrained_of_transferred (by exact ht)]
    simp [r, recordRead, State.push, ha, replyStatus, statusByte]

end Sys2Proof.Machine

/-! PROOFS. O26 and O27: the SEL pulse of register 0x0, and the writes of register 0x2 that move no handshake. -/

namespace Sys2Proof.Machine

/-- A state whose lines have nothing to do and whose phase, if the bus is busy, is quiet. -/
theorem atRest_of_lines {s : State} (hrst : s.bus.rst = s.bus.lastRst)
    (hrelease : (!s.bus.sel && !s.bus.bsy && s.bus.selected) = false) (hselect : (s.bus.sel && !s.bus.selected) = false)
    (hq : s.bus.bsy = true → quietPhase s.bus (phaseOf s.bus) = true) : AtRest s := by
  refine atRest_of_quiet ?_
  rw [quietBus, hrelease, hselect]
  cases hb : s.bus.bsy with
  | true => simp [hrst, hq hb]
  | false => simp [hrst]

/-! ## O26: the SEL pulse (44_host_registers.md R300) -/

/-- The end of a SEL pulse: SEL falls, the DMA timer stops, and the transfer bits of the IRQ status clear. -/
def endSelPulse (s : State) : State :=
  { s with bus.sel := false, adpcm.dmaTimerArmed := false, bus.irqStatus := s.bus.irqStatus &&& ~~~irqTransfer }

theorem write0_of_pump {s t : State} {v : Byte} (h : pump { s.setReg 0x0 v with bus.sel := true } = .ok t) :
    write0 v s = .ok (endSelPulse t) := by
  rw [write0, h]
  rfl

theorem exec_wr0x0 {s t : State} {v : Byte} (h : pump { s.setReg 0x0 v with bus.sel := true } = .ok t)
    (hrest : AtRest (endSelPulse t)) : exec (.wr0x0 v) s = .next (endSelPulse t) := by
  have hexec : exec (.wr0x0 v) s = hostWrite (write0 v s) s := rfl
  rw [hexec, write0_of_pump h]
  exact hostWrite_ok (pump_of_atRest hrest)

theorem exec_wr0x0_error {s : State} {v : Byte} {f : Fault} (h : pump { s.setReg 0x0 v with bus.sel := true } = .error f) :
    exec (.wr0x0 v) s = .next { s with fault := some f } := by
  have hexec : exec (.wr0x0 v) s = hostWrite (write0 v s) s := rfl
  rw [hexec, write0, h]
  rfl

/-- No phase looks at SEL, and DataIn with no byte left asks only that IRQ_READY be clear, which the pulse makes it. -/
theorem quietPhase_endSelPulse {b : Bus} {p : Phase} (h : quietPhase b p = true) :
    quietPhase { b with sel := false, irqStatus := b.irqStatus &&& ~~~irqTransfer } p = true := by
  have hclear : b.irqStatus &&& ~~~irqTransfer &&& ~~~irqReady = b.irqStatus &&& ~~~irqTransfer := BitVec.and_assoc _ _ _
  cases p with
  | dataIn =>
    simp only [quietPhase, Bool.and_eq_true, Bool.or_eq_true, decide_eq_true_eq] at h ⊢
    obtain ⟨hboth, hpending⟩ := h
    exact ⟨hboth, hpending.imp_right fun ⟨⟨hdrained, _⟩, ht⟩ => ⟨⟨hdrained, hclear⟩, ht⟩⟩
  | _ => exact h

/-- The end of the pulse leaves a target that is selected, with no other line pending, at rest. -/
theorem endSelPulse_atRest {s : State} (hrst : s.bus.rst = s.bus.lastRst) (hb : s.bus.bsy = true)
    (hq : quietPhase s.bus (phaseOf s.bus) = true) : AtRest (endSelPulse s) :=
  atRest_of_lines hrst (by simp [endSelPulse, hb]) rfl fun _ => quietPhase_endSelPulse hq

/-- A selected target sees nothing of the rise of SEL (40_bus_phases.md R143). -/
theorem BusInv.pump_sel_of_selected {s : State} (h : BusInv s) (hs : s.bus.selected = true) (v : Byte) :
    pump { s.setReg 0x0 v with bus.sel := true } = .ok { s.setReg 0x0 v with bus.sel := true } := by
  have hb : s.bus.bsy = true := h.selectedBusy.symm.trans hs
  exact pump_of_atRest (atRest_of_lines h.rstSeen.symm rfl (by simp [hs]) fun _ => h.quietPhase hb)

/-- The target selected, in Command phase and with REQ (40_bus_phases.md R143). -/
def selectTarget (s : State) : State :=
  { s with
    bus.selected := true, bus.bsy := true, bus.req := true, bus.cd := true, bus.io := false, bus.msg := false }

theorem select_of_free {s : State} (h : (s.bus.sel && !s.bus.selected) = true) : select s = selectTarget s := if_pos h

/-- The rise of SEL selects a target that is not, and the same pass makes a step of Command phase (40_bus_phases.md R140). -/
theorem BusInv.pass_sel_of_free {s : State} (h : BusInv s) (hs : s.bus.selected = false) (v : Byte) :
    pass { s.setReg 0x0 v with bus.sel := true } =
      phaseStep .command (selectTarget { s.setReg 0x0 v with bus.sel := true }) := by
  have hlines : linePasses { s.setReg 0x0 v with bus.sel := true } = selectTarget { s.setReg 0x0 v with bus.sel := true } := by
    rw [linePasses, resetEdge_of_eq (by exact h.rstSeen.symm), busRelease_of_not rfl, select_of_free (by simp [hs])]
  rw [pass, hlines, phasePass, if_pos (by simp [selectTarget, h.noAtn])]
  rfl

/-- A target selected in a pass whose Command step leaves REQ and ACK apart is at rest: nothing more moves before SEL falls. -/
theorem BusInv.exec_wr0x0_of_free {s t : State} {v : Byte} (h : BusInv s) (hs : s.bus.selected = false)
    (hstep : phaseStep .command (selectTarget { s.setReg 0x0 v with bus.sel := true }) = .ok t) (hb : t.bus.bsy = true)
    (hne : t.bus.req ≠ t.bus.ack) : exec (.wr0x0 v) s = .next (endSelPulse t) := by
  have hpass := (h.pass_sel_of_free hs v).trans hstep
  obtain ⟨hrst, hsel, -⟩ := pass_afterPass hpass
  have hquiet := quietPhase_of_req_ne_ack hne (phaseOf t.bus)
  have hrest : AtRest t := atRest_of_lines hrst (by simp [hb]) hsel fun _ => hquiet
  exact exec_wr0x0 (pump_of_pass hpass hrest) (endSelPulse_atRest hrst hb hquiet)

/-- Settles O26: by the selection latch, ACK, and whether the command buffer is full. -/
theorem selectWrite : Obligations.SelectWrite := by
  intro s v h t
  have hsel := h.noSel
  refine ⟨fun hs => ?_, fun hs ha => ?_, fun hs ha hl => ?_, fun hs ha hl => ?_⟩
  · have hb : s.bus.bsy = true := h.selectedBusy.symm.trans hs
    rw [exec_wr0x0 (h.pump_sel_of_selected hs v) (endSelPulse_atRest h.rstSeen.symm hb (h.quietPhase hb))]
    simp [t, endSelPulse, hsel, irqTransfer]
  · have hstep : phaseStep .command (selectTarget { s.setReg 0x0 v with bus.sel := true }) = .ok _ :=
      phaseStep_of_quiet (quietPhase_of_req_ne_ack (by simp [selectTarget, ha]) _)
    rw [h.exec_wr0x0_of_free hs hstep rfl (by simp [selectTarget, ha])]
    simp [t, endSelPulse, selectTarget, hsel, irqTransfer]
  · rw [h.exec_wr0x0_of_free hs (phaseStep_command_of_handshake rfl ha hl) rfl (by simp [selectTarget, ha])]
    simp [t, endSelPulse, selectTarget, hsel, irqTransfer]
  · exact exec_wr0x0_error (pump_of_pass_error ((h.pass_sel_of_free hs v).trans (phaseStep_command_of_full rfl ha hl)))

/-! ## O27: ACK with nothing pending (44_host_registers.md R302) -/

/-- A write of register 0x2 whose level of ACK the phase has no step for is its effect: ACK moves no other line. -/
theorem BusInv.exec_ackWrite_of_quiet {s : State} {v : Byte} {b : Bool} (h : BusInv s) (hv : v[7] = b)
    (hq : s.bus.bsy = true → Machine.quietPhase { s.bus with ack := b } (phaseOf s.bus) = true) :
    exec (.wr0x2 v) s = .next { s.setReg 0x2 v with bus.ack := b } := by
  obtain ⟨hrelease, hselect⟩ := h.quietLines
  rw [exec_wr0x2 hv]
  exact hostWrite_ok (pump_of_atRest (atRest_of_lines h.rstSeen.symm hrelease hselect hq))

/-- Settles O27. -/
theorem ackWithNothingPending : Obligations.AckWithNothingPending := by
  intro s v h
  refine ⟨fun hv => ?_, fun hv ha hr => ?_, fun hv ha hidle => ?_⟩
  · exact h.exec_ackWrite_of_quiet hv h.quietPhase
  · exact h.exec_ackWrite_of_quiet hv fun _ => quietPhase_of_req_ne_ack (by simp [hr]) _
  · have hr := h.req_of_ack ha
    refine h.exec_ackWrite_of_quiet hv fun hb => ?_
    rcases hidle with hfree | ⟨hphase, hc⟩ | ⟨hphase, hs⟩ | ⟨hphase, hm⟩
    · exact absurd hb (by simp [hfree])
    · rw [(phaseOf_command (by rw [hb, hphase])).2]
      simp [quietPhase, hr, hc]
    · rw [(phaseOf_status (by rw [hb, hphase])).2]
      simp [quietPhase, hr, hs]
    · rw [(phaseOf_messageIn (by rw [hb, hphase])).2]
      simp [quietPhase, hr, hm]

end Sys2Proof.Machine

/-! PROOFS. O58: who may change the registers, the BRAM lock and the fades. -/

namespace Sys2Proof.Machine

/-! ## The rules that change none of these, or only store their byte -/

/-- What O58 says few instructions change, and hpc, the program, the configuration and `lastFrame`, which none does. -/
def guardedFields (s : State) : Vector Byte 16 × Bool × FadeChannel × FadeChannel × Nat × List HostWord × Config × Frame :=
  (s.reg, s.bramLocked, s.fadeCd, s.fadeAd, s.hpc, s.program, s.config, s.audio.lastFrame)

section
variable {s t u : State} {r : Result}

theorem PumpEffect.guardedFields (h : PumpEffect s t) : guardedFields t = guardedFields s := by
  simp only [Machine.guardedFields, h.reg, h.bramLocked, h.fadeCd, h.fadeAd, h.hpc, h.program, h.config, h.lastFrame]

theorem HandlerEffect.guardedFields (h : HandlerEffect s t) : guardedFields t = guardedFields s := by
  simp only [Machine.guardedFields, h.reg, h.bramLocked, h.fadeCd, h.fadeAd, h.hpc, h.program, h.config, h.lastFrame]

theorem EngineOnly.guardedFields (h : EngineOnly s t) : guardedFields t = guardedFields s := by
  rw [h]
  rfl

theorem pump_guardedFields (h : pump s = .ok t) : guardedFields t = guardedFields s := (pump_effect h).guardedFields

theorem write0_guardedFields {v : Byte} (h : write0 v s = .ok t) : guardedFields t = guardedFields (s.setReg 0x0 v) := by
  obtain ⟨u, hu, h⟩ := Except.bind_eq_ok h
  cases h
  exact (pump_guardedFields hu).trans rfl

theorem portWrite_engineOnly (v : Byte) (s : State) : EngineOnly (s.setReg 0xA v) (portWrite v s) := by
  rcases Nat.eq_zero_or_pos s.adpcm.writeHoldoff with hready | hheld
  · rw [portWrite_of_ready hready]
    rfl
  · rw [portWrite_of_holdoff hheld]
    rfl

theorem dmaControlWrite_engineOnly (v : Byte) (s : State) : EngineOnly (s.setReg 0xB v) (dmaControlWrite v s) := by
  unfold dmaControlWrite
  dsimp only
  split <;> rfl

theorem portRead_engineOnly (s : State) : EngineOnly s (portRead s) := by
  unfold portRead
  split <;> rfl

theorem dmaStall_engineOnly (s : State) : EngineOnly s (dmaStall s) := by
  unfold dmaStall
  dsimp only
  split <;> rfl

theorem lowNibble_engineOnly (s : State) : EngineOnly s (lowNibble s) := by
  unfold lowNibble
  dsimp only
  split <;> rfl

theorem dmaTick_guardedFields (h : dmaTick s = .ok t) : guardedFields t = guardedFields s := by
  obtain ⟨u, hu, ht⟩ := Except.bind_eq_ok h
  refine (pump_guardedFields ht).trans ?_
  unfold dmaTransfer at hu
  split at hu
  · obtain ⟨w, hw, hu⟩ := Except.bind_eq_ok hu
    cases hu
    exact (accessor_effect hw).guardedFields
  · cases hu
    exact (dmaStall_engineOnly s).guardedFields

theorem nibbleTick_guardedFields (h : nibbleTick s = .ok t) : guardedFields t = guardedFields s := by
  refine (pump_guardedFields h).trans ?_
  split
  · exact (lowNibble_engineOnly s).guardedFields
  · rfl

theorem loadSector_guardedFields (s : State) : guardedFields (loadSector s) = guardedFields s := by
  unfold loadSector askSector
  dsimp only
  split <;> split <;> rfl

theorem sectorTick_guardedFields (h : sectorTick s = .ok t) : guardedFields t = guardedFields s := by
  refine (pump_guardedFields h).trans ?_
  split
  · exact loadSector_guardedFields s
  · rfl

theorem audioPoll_guardedFields {ended : Bool} (h : audioPoll ended s = .ok t) : guardedFields t = guardedFields s := by
  obtain ⟨u, hu, ht⟩ := Except.bind_eq_ok h
  refine (pump_guardedFields ht).trans ?_
  rcases pollAnswered_cases hu with rfl | ⟨e, rfl⟩ | rfl | rfl <;> rfl

/-! ## The frame of an instruction -/

/-- What O58 says of an instruction that leads from s to t. -/
structure RegisterFrame (i : Instr) (s t : State) : Prop where
  registers : ∀ q, storedRegister i ≠ some q → t.getReg q = s.getReg q
  lock      : (∀ v, i ≠ .wr0x7 v) → i ≠ .rd0x3 → t.bramLocked = s.bramLocked
  fades     : touchesFades i = false → t.fadeCd = s.fadeCd ∧ t.fadeAd = s.fadeAd
  hpc       : t.hpc = s.hpc
  program   : t.program = s.program
  config    : t.config = s.config
  lastFrame : t.audio.lastFrame = s.audio.lastFrame

variable {i : Instr}

theorem RegisterFrame.refl (i : Instr) (s : State) : RegisterFrame i s s :=
  ⟨fun _ _ => rfl, fun _ _ => rfl, fun _ => ⟨rfl, rfl⟩, rfl, rfl, rfl, rfl⟩

theorem RegisterFrame.congr (h : RegisterFrame i s u) (e : guardedFields t = guardedFields u) : RegisterFrame i s t := by
  simp only [Machine.guardedFields, Prod.mk.injEq] at e
  obtain ⟨hreg, hlock, hcd, had, hhpc, hprogram, hconfig, hlast⟩ := e
  exact
    { registers := fun q hq => (getReg_congr hreg q).trans (h.registers q hq)
      lock := fun h7 h3 => hlock.trans (h.lock h7 h3)
      fades := fun hf => ⟨hcd.trans (h.fades hf).1, had.trans (h.fades hf).2⟩
      hpc := hhpc.trans h.hpc
      program := hprogram.trans h.program
      config := hconfig.trans h.config
      lastFrame := hlast.trans h.lastFrame }

/-- An instruction that changes none of these fields. -/
theorem RegisterFrame.of_same (e : guardedFields t = guardedFields s) : RegisterFrame i s t := (RegisterFrame.refl i s).congr e

/-- An instruction that stores its byte, and changes none of these fields besides. -/
theorem RegisterFrame.of_store {q : RegIndex} {v : Byte} (hq : storedRegister i = some q)
    (e : guardedFields t = guardedFields (s.setReg q v)) : RegisterFrame i s t :=
  have hother (p : RegIndex) (hp : storedRegister i ≠ some p) : p ≠ q := fun h => hp (h ▸ hq)
  RegisterFrame.congr
    { RegisterFrame.refl i s with registers := fun p hp => getReg_setReg_other s v (hother p hp) } e

theorem RegisterFrame.write7 (v : Byte) (s : State) : RegisterFrame (.wr0x7 v) s (write7 v s) := by
  have hstore : RegisterFrame (.wr0x7 v) s (s.setReg 0x7 v) := .of_store rfl rfl
  unfold Machine.write7
  dsimp only
  split
  · exact { hstore with lock := fun h7 => absurd rfl (h7 v) }
  · exact hstore

/-- A write of register 0xF, which starts the fades of its program (43_fade.md R271). -/
theorem RegisterFrame.fadeWrite (hq : storedRegister i = some 0xF) (hf : touchesFades i = true) (v : Byte) (s : State) :
    RegisterFrame i s (fadeWrite v s) := by
  have hmove : FadeMove s (Machine.fadeWrite v s) := .write v
  exact
    { registers := fun p hp => hmove.getReg fun h => hp (h ▸ hq)
      lock := fun _ _ => by rw [hmove.fadesOnly]
      fades := fun h => absurd h (by simp [hf])
      hpc := by rw [hmove.fadesOnly]
      program := by rw [hmove.fadesOnly]
      config := by rw [hmove.fadesOnly]
      lastFrame := by rw [hmove.fadesOnly] }

/-- A fade tick, which changes one channel (43_fade.md R276, R277). -/
theorem RegisterFrame.setChannel (hf : touchesFades i = true) (s : State) (ch : Channel) (c : FadeChannel) :
    RegisterFrame i s (s.setChannel ch c) := by
  have htouched : touchesFades i ≠ false := by simp [hf]
  cases ch <;> exact { RegisterFrame.refl i s with fades := fun h => absurd h htouched }

theorem fadeInTick_registerFrame (hf : touchesFades i = true) {ch : Channel} (h : fadeInTick ch s = .ok t) :
    RegisterFrame i s t :=
  (RegisterFrame.setChannel hf s ch (rampUp (s.channel ch))).congr ((pump_guardedFields h).trans rfl)

theorem fadeOutTick_registerFrame (hf : touchesFades i = true) {ch : Channel} (h : fadeOutTick ch s = .ok t) :
    RegisterFrame i s t :=
  (RegisterFrame.setChannel hf s ch (rampDown (s.channel ch))).congr ((pump_guardedFields h).trans rfl)

/-- The frame of a rule is that of its outcome: a raise changes none of these fields (60_exceptions.md R352). -/
theorem settle_registerFrame (h : settle s r = .next t) (hr : ∀ u, r = .ok u → RegisterFrame i s u) : RegisterFrame i s t := by
  rcases settle_next h with ht | ⟨f, -, rfl⟩
  · exact hr t ht
  · exact .of_same rfl

theorem settle_handler_registerFrame (h : settle s r = .next t) (hr : ∀ u, r = .ok u → HandlerEffect s u) :
    RegisterFrame i s t :=
  settle_registerFrame h fun u hu => .of_same (hr u hu).guardedFields

theorem agentStep_registerFrame {a : Agent} (h : agentStep a r s = .next t) (hr : ∀ u, r = .ok u → RegisterFrame i s u) :
    RegisterFrame i s t :=
  settle_registerFrame (agentStep_next h).2 hr

theorem hostWrite_registerFrame (h : hostWrite r s = .next t) (hr : ∀ u, r = .ok u → RegisterFrame i s u) :
    RegisterFrame i s t := by
  rcases hostWrite_next h with ⟨u, hu, ht⟩ | ⟨f, rfl⟩
  · exact (hr u hu).congr (pump_guardedFields ht)
  · exact .of_same rfl

theorem hostWrite_ok_registerFrame (h : hostWrite (.ok u) s = .next t) (hu : RegisterFrame i s u) : RegisterFrame i s t :=
  hostWrite_registerFrame h fun _ hv => Except.ok.inj hv ▸ hu

theorem exec_registerFrame (h : exec i s = .next t) : RegisterFrame i s t := by
  cases i with
  | rd0x0 | rd0x1 | rd0x2 | rd0x4 | rd0x5 | rd0x6 | rd0x7 | rd0x9 | rd0xB | rd0xC | rd0xD | rd0xE | rd0xF =>
    cases h; exact .of_same rfl
  | rd0x3 => cases h; exact { RegisterFrame.refl _ s with lock := fun _ h3 => absurd rfl h3 }
  | rd0x8 => exact settle_registerFrame h fun u hu => .of_same (accessor_effect hu).guardedFields
  | rd0xA => cases h; exact .of_same (portRead_engineOnly _).guardedFields
  | wr0x0 v => exact hostWrite_registerFrame h fun _ hu => .of_store rfl (write0_guardedFields hu)
  | wr0x1 _ | wr0x2 _ | wr0x4 _ | wr0x5 _ | wr0x6 _ | wr0x8 _ | wr0x9 _ | wr0xE _ =>
    exact hostWrite_ok_registerFrame h (.of_store rfl rfl)
  | wr0x3 _ | wr0xC _ => exact hostWrite_ok_registerFrame h (.refl _ s)
  | wr0x7 v => exact hostWrite_ok_registerFrame h (.write7 v s)
  | wr0xA v => exact hostWrite_ok_registerFrame h (.of_store rfl (portWrite_engineOnly v s).guardedFields)
  | wr0xB v => exact hostWrite_ok_registerFrame h (.of_store rfl (dmaControlWrite_engineOnly v s).guardedFields)
  | wr0xD v => exact hostWrite_ok_registerFrame h (.of_store rfl (adpcmControlWrite_engineOnly v s).guardedFields)
  | wr0xF _ | fade0x0 _ | fade0x1 _ | fade0x8 _ | fade0x9 _ | fade0xA _ | fade0xC _ | fade0xD _ | fade0xE _ =>
    exact hostWrite_ok_registerFrame h (.fadeWrite rfl rfl _ s)
  | evTickSector => exact agentStep_registerFrame h fun _ hu => .of_same (sectorTick_guardedFields hu)
  | evTickDma => exact agentStep_registerFrame h fun _ hu => .of_same (dmaTick_guardedFields hu)
  | evTickNibble => exact agentStep_registerFrame h fun _ hu => .of_same (nibbleTick_guardedFields hu)
  | evFadeCdIn | evFadeAdIn => exact agentStep_registerFrame h fun _ => fadeInTick_registerFrame rfl
  | evFadeCdOut | evFadeAdOut => exact agentStep_registerFrame h fun _ => fadeOutTick_registerFrame rfl
  | evPollAudio answer =>
    exact agentStep_registerFrame (a := .audioEndPoll) h fun _ hu => .of_same (audioPoll_guardedFields hu)
  | reserved low => cases h; exact .of_same rfl
  | testUnitReady => exact settle_handler_registerFrame h fun _ => testUnitReady_effect
  | read6 frame count => exact settle_handler_registerFrame h fun _ => read6_effect
  | setAudioStart mode addr => exact settle_handler_registerFrame h fun _ => setAudioStart_effect
  | setAudioEnd mode addr => exact settle_handler_registerFrame h fun _ => setAudioEnd_effect
  | pause => exact settle_handler_registerFrame h fun _ => pause_effect
  | getSubchannelQ => exact settle_handler_registerFrame h fun _ => getSubchannelQ_effect
  | getDirInfo subFunction track => exact settle_handler_registerFrame h fun _ => getDirInfo_effect
  | dirInfoTracks => exact settle_handler_registerFrame h fun _ => dirInfoTracks_effect
  | dirInfoDiscSize => exact settle_handler_registerFrame h fun _ => dirInfoDiscSize_effect
  | dirInfoTrackStart track => exact settle_handler_registerFrame h fun _ => dirInfoTrackStart_effect
  | audioAddrLba _ _ _ | audioAddrMsf _ _ _ _ _ | audioAddrTrack _ _ _ | audioAddrReserved _ _ =>
    exact settle_handler_registerFrame h fun _ => audioCommand_effect

end

/-- Settles O58: the frame of every instruction, its clauses in order. -/
theorem registerLockAndFadeFrame : Obligations.RegisterLockAndFadeFrame := by
  intro i s t h
  have hframe := exec_registerFrame h
  exact ⟨hframe.registers, hframe.lock, hframe.fades, hframe.hpc, hframe.program, hframe.config, hframe.lastFrame⟩

end Sys2Proof.Machine

/-! PROOFS. O11: a fault rolls the step back and stops every agent. -/

namespace Sys2Proof.Machine

theorem StepMove.fault {s t : State} (h : StepMove s t) : t.fault = s.fault := congrArg (·.2.2.2.1) h.runFields

/-- The outcome of a command's rule: the handler's effect, or a fault taken from the state it found (60_exceptions.md R352). -/
theorem settle_handlerEffect {s t : State} {r : Result} (h : settle s r = .next t) (hr : ∀ u, r = .ok u → HandlerEffect s u) :
    HandlerEffect s t ∨ ∃ f, t = takeFault s f :=
  (settle_next h).imp (hr t) fun ⟨f, _, ht⟩ => ⟨f, ht⟩

/-- A command row that gives a next state had its handler's effect, or took a fault: `exec_moves` for the rows it leaves out. -/
theorem exec_command_effect {i : Instr} {s t : State} (hi : i.isHostOp = false) (h : exec i s = .next t) :
    HandlerEffect s t ∨ ∃ f, t = takeFault s f := by
  cases i with
  | testUnitReady => exact settle_handlerEffect h fun _ => testUnitReady_effect
  | read6 frame count => exact settle_handlerEffect h fun _ => read6_effect
  | setAudioStart mode addr => exact settle_handlerEffect h fun _ => setAudioStart_effect
  | setAudioEnd mode addr => exact settle_handlerEffect h fun _ => setAudioEnd_effect
  | pause => exact settle_handlerEffect h fun _ => pause_effect
  | getSubchannelQ => exact settle_handlerEffect h fun _ => getSubchannelQ_effect
  | getDirInfo subFunction track => exact settle_handlerEffect h fun _ => getDirInfo_effect
  | dirInfoTracks => exact settle_handlerEffect h fun _ => dirInfoTracks_effect
  | dirInfoDiscSize => exact settle_handlerEffect h fun _ => dirInfoDiscSize_effect
  | dirInfoTrackStart track => exact settle_handlerEffect h fun _ => dirInfoTrackStart_effect
  | audioAddrLba _ _ _ | audioAddrMsf _ _ _ _ _ | audioAddrTrack _ _ _ | audioAddrReserved _ _ =>
    exact settle_handlerEffect h fun _ => audioCommand_effect
  | _ => cases hi

/-- No instruction touches the recorded fault and something else besides: it leaves the fault alone, or only takes one
(60_exceptions.md R352; log 2). -/
theorem exec_fault {i : Instr} {s t : State} (h : exec i s = .next t) : t.fault = s.fault ∨ ∃ f, t = takeFault s f := by
  cases hi : i.isHostOp with
  | true => exact (exec_moves hi h).imp_left StepMove.fault
  | false => exact (exec_command_effect hi h).imp_left HandlerEffect.fault

/-- An instruction that raises changes nothing but the fault it records. -/
theorem exec_takes_fault {i : Instr} {s t : State} {f : Fault} (hs : s.fault = none) (h : exec i s = .next t)
    (ht : t.fault = some f) : t = { s with fault := some f } := by
  rcases exec_fault h with hkept | ⟨g, rfl⟩
  · rw [hkept, hs] at ht
    cases ht
  · cases ht
    rfl

theorem step_next_no_fault {s t : State} (h : step s = .next t) : s.fault = none ∧ t.fault = none := by
  obtain ⟨hs, w, i, u, -, -, -, hu, rfl⟩ := step_next h
  exact ⟨hs, hu⟩

theorem step_of_faulted {s : State} {f : Fault} (h : s.fault = some f) : step s = .refused (.faulted f) := by
  simp only [step, h]

/-- Settles O11: the four clauses are the step's next state, its fault, its instruction's fault, and no step after one. -/
theorem faultsRollBackAndStick : Obligations.FaultsRollBackAndStick := by
  refine ⟨fun _ _ => step_next_no_fault, fun s f h => ⟨(step_fault h).1, stateAfter_fault h⟩,
    fun _ _ _ _ => exec_takes_fault, fun s f h => ?_⟩
  have hstep : step s = .refused (.faulted f) := step_of_faulted h
  exact ⟨hstep, stateAfter_refused hstep⟩

end Sys2Proof.Machine
